-- ==== Sys2Proof/Word.lean ====
section
/-! DEFINITION. The words of the machine: every quantity is unsigned (R5, R10, R120). -/

namespace Sys2Proof

/-- An 8-bit value: a general register, a timer, a byte of memory, the immediate `kk` (R10, R14, R16, R61). -/
abbrev Byte := BitVec 8

/-- A 16-bit value: `I`, `PC`, a stack entry, an opcode, a key vector (R12, R13, R17, R22, R60). -/
abbrev Word := BitVec 16

/-- The 12-bit immediate `nnn` (R61). -/
abbrev Addr := BitVec 12

/-- The number of a general register, `V0` to `VF`; it always names a register that exists (R10, R63). -/
abbrev Reg := Fin 16

/-- The index of a key of the keypad (R22). -/
abbrev Key := Fin 16

/-- `VF`, the register that is also the flag (R11). -/
abbrev vf : Reg := 15

end Sys2Proof
end

