-- ==== Sys2Proof/Syntax.lean ====
section
/-! DEFINITION. The 35 instructions of R64, one constructor per row of spec/opcode_table.json, with every field of
the row's format (R62), the ignored ones too (R67). -/

namespace Sys2Proof

inductive Instr where
  /-- `00E0 CLS` -/
  | cls
  /-- `00EE RET` -/
  | ret
  /-- `0nnn SYS addr` -/
  | sys (nnn : Addr)
  /-- `1nnn JP addr` -/
  | jp (nnn : Addr)
  /-- `2nnn CALL addr` -/
  | call (nnn : Addr)
  /-- `3xkk SE Vx,kk` -/
  | seVxKk (x : Reg) (kk : Byte)
  /-- `4xkk SNE Vx,kk` -/
  | sneVxKk (x : Reg) (kk : Byte)
  /-- `5xy0 SE Vx,Vy` -/
  | seVxVy (x y : Reg)
  /-- `6xkk LD Vx,kk` -/
  | ldVxKk (x : Reg) (kk : Byte)
  /-- `7xkk ADD Vx,kk` -/
  | addVxKk (x : Reg) (kk : Byte)
  /-- `8xy0 LD Vx,Vy` -/
  | ldVxVy (x y : Reg)
  /-- `8xy1 OR Vx,Vy` -/
  | orVxVy (x y : Reg)
  /-- `8xy2 AND Vx,Vy` -/
  | andVxVy (x y : Reg)
  /-- `8xy3 XOR Vx,Vy` -/
  | xorVxVy (x y : Reg)
  /-- `8xy4 ADD Vx,Vy` -/
  | addVxVy (x y : Reg)
  /-- `8xy5 SUB Vx,Vy` -/
  | subVxVy (x y : Reg)
  /-- `8xy6 SHR Vx`; `y` is ignored by the instruction (R67). -/
  | shrVx (x y : Reg)
  /-- `8xy7 SUBN Vx,Vy` -/
  | subnVxVy (x y : Reg)
  /-- `8xyE SHL Vx`; `y` is ignored by the instruction (R67). -/
  | shlVx (x y : Reg)
  /-- `9xy0 SNE Vx,Vy` -/
  | sneVxVy (x y : Reg)
  /-- `Annn LD I,addr` -/
  | ldIAddr (nnn : Addr)
  /-- `Bnnn JP V0,addr` -/
  | jpV0Addr (nnn : Addr)
  /-- `Cxkk RND Vx,kk` -/
  | rndVxKk (x : Reg) (kk : Byte)
  /-- `Dxyn DRW Vx,Vy,n`; `n` is a count of rows (R63). -/
  | drwVxVyN (x y : Reg) (n : Fin 16)
  /-- `Ex9E SKP Vx` -/
  | skpVx (x : Reg)
  /-- `ExA1 SKNP Vx` -/
  | sknpVx (x : Reg)
  /-- `Fx07 LD Vx,DT` -/
  | ldVxDt (x : Reg)
  /-- `Fx0A LD Vx,K` -/
  | ldVxK (x : Reg)
  /-- `Fx15 LD DT,Vx` -/
  | ldDtVx (x : Reg)
  /-- `Fx18 LD ST,Vx` -/
  | ldStVx (x : Reg)
  /-- `Fx1E ADD I,Vx` -/
  | addIVx (x : Reg)
  /-- `Fx29 LD F,Vx` -/
  | ldFVx (x : Reg)
  /-- `Fx33 LD B,Vx` -/
  | ldBVx (x : Reg)
  /-- `Fx55 LD [I],Vx` -/
  | ldMemVx (x : Reg)
  /-- `Fx65 LD Vx,[I]` -/
  | ldVxMem (x : Reg)
  deriving DecidableEq, Repr

/-- Why bytes are no instruction. -/
inductive DecodeError where
  /-- The word matches no row of R64: the machine raises `InvalidOpcode` with it (R66, R171). -/
  | invalidOpcode (op : Word)
  /-- Fewer than two bytes were given; a step never decodes fewer (R60, R81). -/
  | tooShort
  deriving DecidableEq, Repr

end Sys2Proof
end

