-- ==== Sys2Proof/WellFormed.lean ====
section
/-! DEFINITION. Which terms of `Instr` are instructions. Every field but one is bounded by its type (R61); the one
check left is group 0, where `00E0` and `00EE` are tested first and every other word is `SYS` (R65). -/

namespace Sys2Proof

/-- `SYS addr` is every word with top nibble 0 other than `00E0` and `00EE` (R65, R100). -/
def sysAddrOk (nnn : Addr) : Bool := nnn != 0x0E0#12 && nnn != 0x0EE#12

/-- The instruction is one of R64: its word decodes to it. -/
def Instr.wellFormed : Instr → Bool
  | .cls => true
  | .ret => true
  | .sys nnn => sysAddrOk nnn
  | .jp _ => true
  | .call _ => true
  | .seVxKk _ _ => true
  | .sneVxKk _ _ => true
  | .seVxVy _ _ => true
  | .ldVxKk _ _ => true
  | .addVxKk _ _ => true
  | .ldVxVy _ _ => true
  | .orVxVy _ _ => true
  | .andVxVy _ _ => true
  | .xorVxVy _ _ => true
  | .addVxVy _ _ => true
  | .subVxVy _ _ => true
  | .shrVx _ _ => true
  | .subnVxVy _ _ => true
  | .shlVx _ _ => true
  | .sneVxVy _ _ => true
  | .ldIAddr _ => true
  | .jpV0Addr _ => true
  | .rndVxKk _ _ => true
  | .drwVxVyN _ _ _ => true
  | .skpVx _ => true
  | .sknpVx _ => true
  | .ldVxDt _ => true
  | .ldVxK _ => true
  | .ldDtVx _ => true
  | .ldStVx _ => true
  | .addIVx _ => true
  | .ldFVx _ => true
  | .ldBVx _ => true
  | .ldMemVx _ => true
  | .ldVxMem _ => true

end Sys2Proof
end

