-- ==== Sys2Proof/Decode.lean ====
section
/-! DEFINITION. The decoder of R65, total on any word and any bytes, and after it the encoder, written from the
formats of R62 and the opcode map of R64. -/

namespace Sys2Proof

/-! ### The fields of the opcode word (R61) -/

/-- The top nibble, `op[15:12]`. -/
def opTop (op : Word) : Nat := (op.extractLsb' 12 4).toNat

/-- `x = op[11:8]`. -/
def opX (op : Word) : Reg := ⟨(op.extractLsb' 8 4).toNat, (op.extractLsb' 8 4).isLt⟩

/-- `y = op[7:4]`. -/
def opY (op : Word) : Reg := ⟨(op.extractLsb' 4 4).toNat, (op.extractLsb' 4 4).isLt⟩

/-- `n = op[3:0]`. -/
def opN (op : Word) : Fin 16 := ⟨(op.extractLsb' 0 4).toNat, (op.extractLsb' 0 4).isLt⟩

/-- `kk = op[7:0]`. -/
def opKk (op : Word) : Byte := op.extractLsb' 0 8

/-- `nnn = op[11:0]`. -/
def opNnn (op : Word) : Addr := op.extractLsb' 0 12

/-! ### The decode procedure (R65) -/

/-- Group 0: the two fixed words first, every other word is `SYS`. -/
def decodeGroup0 (op : Word) : Instr :=
  if op = 0x00E0#16 then .cls
  else if op = 0x00EE#16 then .ret
  else .sys (opNnn op)

/-- Group 8: the low nibble selects; 8, 9, A, B, C, D and F are illegal. -/
def decodeGroup8 (op : Word) : Except DecodeError Instr :=
  match (opN op).val with
  | 0x0 => .ok (.ldVxVy (opX op) (opY op))
  | 0x1 => .ok (.orVxVy (opX op) (opY op))
  | 0x2 => .ok (.andVxVy (opX op) (opY op))
  | 0x3 => .ok (.xorVxVy (opX op) (opY op))
  | 0x4 => .ok (.addVxVy (opX op) (opY op))
  | 0x5 => .ok (.subVxVy (opX op) (opY op))
  | 0x6 => .ok (.shrVx (opX op) (opY op))
  | 0x7 => .ok (.subnVxVy (opX op) (opY op))
  | 0xE => .ok (.shlVx (opX op) (opY op))
  | _ => .error (.invalidOpcode op)

/-- Group E: the low byte selects. -/
def decodeGroupE (op : Word) : Except DecodeError Instr :=
  if opKk op = 0x9E#8 then .ok (.skpVx (opX op))
  else if opKk op = 0xA1#8 then .ok (.sknpVx (opX op))
  else .error (.invalidOpcode op)

/-- Group F: the low byte selects. -/
def decodeGroupF (op : Word) : Except DecodeError Instr :=
  if opKk op = 0x07#8 then .ok (.ldVxDt (opX op))
  else if opKk op = 0x0A#8 then .ok (.ldVxK (opX op))
  else if opKk op = 0x15#8 then .ok (.ldDtVx (opX op))
  else if opKk op = 0x18#8 then .ok (.ldStVx (opX op))
  else if opKk op = 0x1E#8 then .ok (.addIVx (opX op))
  else if opKk op = 0x29#8 then .ok (.ldFVx (opX op))
  else if opKk op = 0x33#8 then .ok (.ldBVx (opX op))
  else if opKk op = 0x55#8 then .ok (.ldMemVx (opX op))
  else if opKk op = 0x65#8 then .ok (.ldVxMem (opX op))
  else .error (.invalidOpcode op)

/-- `decode(op)` of R65: classify by the top nibble, and in groups 0, 5, 8, 9, E and F by the low bits (conflict C6).
The top nibble is below 16, so the last arm is never taken. -/
def decode (op : Word) : Except DecodeError Instr :=
  match opTop op with
  | 0x0 => .ok (decodeGroup0 op)
  | 0x1 => .ok (.jp (opNnn op))
  | 0x2 => .ok (.call (opNnn op))
  | 0x3 => .ok (.seVxKk (opX op) (opKk op))
  | 0x4 => .ok (.sneVxKk (opX op) (opKk op))
  | 0x5 => if (opN op).val = 0 then .ok (.seVxVy (opX op) (opY op)) else .error (.invalidOpcode op)
  | 0x6 => .ok (.ldVxKk (opX op) (opKk op))
  | 0x7 => .ok (.addVxKk (opX op) (opKk op))
  | 0x8 => decodeGroup8 op
  | 0x9 => if (opN op).val = 0 then .ok (.sneVxVy (opX op) (opY op)) else .error (.invalidOpcode op)
  | 0xA => .ok (.ldIAddr (opNnn op))
  | 0xB => .ok (.jpV0Addr (opNnn op))
  | 0xC => .ok (.rndVxKk (opX op) (opKk op))
  | 0xD => .ok (.drwVxVyN (opX op) (opY op) (opN op))
  | 0xE => decodeGroupE op
  | 0xF => decodeGroupF op
  | _ => .error (.invalidOpcode op)

/-- The opcode of two bytes, the first at the lower address: big-endian, `(b0 << 8) | b1` (R40). -/
def wordOfBytes (b0 b1 : Byte) : Word := (b0.zeroExtend 16 <<< 8) ||| b1.zeroExtend 16

/-- Decode the first instruction of a list of bytes (lowest address first); the rest is what follows it. -/
def decodeBytes : List Byte → Except DecodeError (Instr × List Byte)
  | b0 :: b1 :: rest =>
    match decode (wordOfBytes b0 b1) with
    | .ok i => .ok (i, rest)
    | .error e => .error e
  | [] => .error .tooShort
  | [_] => .error .tooShort

/-- The high and the low byte of an opcode, as the hardware stores them: the high byte at the lower address (R40). -/
def bytesOfWord (op : Word) : List Byte := [op.extractLsb' 8 8, op.extractLsb' 0 8]

/-- The instruction the decoder reads from the table word `w` of `nbits` bits: the two bytes are laid out as the
hardware stores them and decoded. -/
def decodeTableWord (nbits w : Nat) : Option Instr :=
  match decodeBytes (bytesOfWord (BitVec.ofNat 16 (w % 2 ^ nbits))) with
  | .ok (i, _) => some i
  | .error _ => none

/-! ### The encoder (R62, R64) -/

/-- Format `NNN`. -/
def encNnn (top : Nat) (nnn : Addr) : Word := BitVec.ofNat 16 (top * 0x1000 + nnn.toNat)

/-- Format `XKK`. -/
def encXkk (top : Nat) (x : Reg) (kk : Byte) : Word := BitVec.ofNat 16 (top * 0x1000 + x.val * 0x100 + kk.toNat)

/-- Formats `XY` (`low` is the minor opcode) and `XYN` (`low` is `n`). -/
def encXy (top : Nat) (x y : Reg) (low : Nat) : Word :=
  BitVec.ofNat 16 (top * 0x1000 + x.val * 0x100 + y.val * 0x10 + low)

/-- Format `X`. -/
def encX (top : Nat) (x : Reg) (low : Nat) : Word := BitVec.ofNat 16 (top * 0x1000 + x.val * 0x100 + low)

/-- The word of a well-formed instruction. -/
def encode : Instr → Word
  | .cls => 0x00E0#16
  | .ret => 0x00EE#16
  | .sys nnn => encNnn 0x0 nnn
  | .jp nnn => encNnn 0x1 nnn
  | .call nnn => encNnn 0x2 nnn
  | .seVxKk x kk => encXkk 0x3 x kk
  | .sneVxKk x kk => encXkk 0x4 x kk
  | .seVxVy x y => encXy 0x5 x y 0x0
  | .ldVxKk x kk => encXkk 0x6 x kk
  | .addVxKk x kk => encXkk 0x7 x kk
  | .ldVxVy x y => encXy 0x8 x y 0x0
  | .orVxVy x y => encXy 0x8 x y 0x1
  | .andVxVy x y => encXy 0x8 x y 0x2
  | .xorVxVy x y => encXy 0x8 x y 0x3
  | .addVxVy x y => encXy 0x8 x y 0x4
  | .subVxVy x y => encXy 0x8 x y 0x5
  | .shrVx x y => encXy 0x8 x y 0x6
  | .subnVxVy x y => encXy 0x8 x y 0x7
  | .shlVx x y => encXy 0x8 x y 0xE
  | .sneVxVy x y => encXy 0x9 x y 0x0
  | .ldIAddr nnn => encNnn 0xA nnn
  | .jpV0Addr nnn => encNnn 0xB nnn
  | .rndVxKk x kk => encXkk 0xC x kk
  | .drwVxVyN x y n => encXy 0xD x y n.val
  | .skpVx x => encX 0xE x 0x9E
  | .sknpVx x => encX 0xE x 0xA1
  | .ldVxDt x => encX 0xF x 0x07
  | .ldVxK x => encX 0xF x 0x0A
  | .ldDtVx x => encX 0xF x 0x15
  | .ldStVx x => encX 0xF x 0x18
  | .addIVx x => encX 0xF x 0x1E
  | .ldFVx x => encX 0xF x 0x29
  | .ldBVx x => encX 0xF x 0x33
  | .ldMemVx x => encX 0xF x 0x55
  | .ldVxMem x => encX 0xF x 0x65

/-- The bytes of an instruction, lowest address first (R40, R60). -/
def encodeBytes (i : Instr) : List Byte := bytesOfWord (encode i)

/-! ### The opcode map as masks and patterns (R64) -/

/-- The `mask` and `match` of an instruction's row; an opcode `op` selects the row when `op & mask = match` (the
three rows of group 0 overlap and are resolved by R65). -/
def rowOf : Instr → Word × Word
  | .cls => (0xFFFF#16, 0x00E0#16)
  | .ret => (0xFFFF#16, 0x00EE#16)
  | .sys _ => (0xF000#16, 0x0000#16)
  | .jp _ => (0xF000#16, 0x1000#16)
  | .call _ => (0xF000#16, 0x2000#16)
  | .seVxKk _ _ => (0xF000#16, 0x3000#16)
  | .sneVxKk _ _ => (0xF000#16, 0x4000#16)
  | .seVxVy _ _ => (0xF00F#16, 0x5000#16)
  | .ldVxKk _ _ => (0xF000#16, 0x6000#16)
  | .addVxKk _ _ => (0xF000#16, 0x7000#16)
  | .ldVxVy _ _ => (0xF00F#16, 0x8000#16)
  | .orVxVy _ _ => (0xF00F#16, 0x8001#16)
  | .andVxVy _ _ => (0xF00F#16, 0x8002#16)
  | .xorVxVy _ _ => (0xF00F#16, 0x8003#16)
  | .addVxVy _ _ => (0xF00F#16, 0x8004#16)
  | .subVxVy _ _ => (0xF00F#16, 0x8005#16)
  | .shrVx _ _ => (0xF00F#16, 0x8006#16)
  | .subnVxVy _ _ => (0xF00F#16, 0x8007#16)
  | .shlVx _ _ => (0xF00F#16, 0x800E#16)
  | .sneVxVy _ _ => (0xF00F#16, 0x9000#16)
  | .ldIAddr _ => (0xF000#16, 0xA000#16)
  | .jpV0Addr _ => (0xF000#16, 0xB000#16)
  | .rndVxKk _ _ => (0xF000#16, 0xC000#16)
  | .drwVxVyN _ _ _ => (0xF000#16, 0xD000#16)
  | .skpVx _ => (0xF0FF#16, 0xE09E#16)
  | .sknpVx _ => (0xF0FF#16, 0xE0A1#16)
  | .ldVxDt _ => (0xF0FF#16, 0xF007#16)
  | .ldVxK _ => (0xF0FF#16, 0xF00A#16)
  | .ldDtVx _ => (0xF0FF#16, 0xF015#16)
  | .ldStVx _ => (0xF0FF#16, 0xF018#16)
  | .addIVx _ => (0xF0FF#16, 0xF01E#16)
  | .ldFVx _ => (0xF0FF#16, 0xF029#16)
  | .ldBVx _ => (0xF0FF#16, 0xF033#16)
  | .ldMemVx _ => (0xF0FF#16, 0xF055#16)
  | .ldVxMem _ => (0xF0FF#16, 0xF065#16)

/-- The 35 rows of R64 in the table's order, as `(mask, match)`. -/
def opcodeRows : List (Word × Word) :=
  [(0xFFFF#16, 0x00E0#16), (0xFFFF#16, 0x00EE#16), (0xF000#16, 0x0000#16), (0xF000#16, 0x1000#16),
   (0xF000#16, 0x2000#16), (0xF000#16, 0x3000#16), (0xF000#16, 0x4000#16), (0xF00F#16, 0x5000#16),
   (0xF000#16, 0x6000#16), (0xF000#16, 0x7000#16), (0xF00F#16, 0x8000#16), (0xF00F#16, 0x8001#16)]
  ++ [(0xF00F#16, 0x8002#16), (0xF00F#16, 0x8003#16), (0xF00F#16, 0x8004#16), (0xF00F#16, 0x8005#16),
   (0xF00F#16, 0x8006#16), (0xF00F#16, 0x8007#16), (0xF00F#16, 0x800E#16), (0xF00F#16, 0x9000#16),
   (0xF000#16, 0xA000#16), (0xF000#16, 0xB000#16), (0xF000#16, 0xC000#16), (0xF000#16, 0xD000#16)]
  ++ [(0xF0FF#16, 0xE09E#16), (0xF0FF#16, 0xE0A1#16), (0xF0FF#16, 0xF007#16), (0xF0FF#16, 0xF00A#16),
   (0xF0FF#16, 0xF015#16), (0xF0FF#16, 0xF018#16), (0xF0FF#16, 0xF01E#16), (0xF0FF#16, 0xF029#16),
   (0xF0FF#16, 0xF033#16), (0xF0FF#16, 0xF055#16), (0xF0FF#16, 0xF065#16)]

end Sys2Proof
end

