-- ==== Sys2Proof/Config.lean ====
section
/-! DEFINITION. The parameters of the core (R4) and the free values behind its two inputs.
`FONT`, the third open parameter, is carried by the state (`State.font`, log 3). -/

namespace Sys2Proof.Config

/-- `MEM_SIZE` (R4, R16). -/
abbrev memSize : Nat := 4096

/-- `PROG_BASE`, the load address and the reset value of `PC` (R4, R200, R201). -/
abbrev progBase : Nat := 0x200

/-- `PROG_MAX`, the longest image (R4, R201). -/
abbrev progMax : Nat := 3584

/-- `FONT_LEN`, the bytes of the font at address 0 (R4, R45). -/
abbrev fontLen : Nat := 80

/-- `STACK_DEPTH` (R4, R17, decision D4; log 6). -/
abbrev stackDepth : Nat := 16

/-- `FB_W` (R4, R18). -/
abbrev fbWidth : Nat := 64

/-- `FB_H` (R4, R18). -/
abbrev fbHeight : Nat := 32

/-- The key vector of the `n`-th sampling that the host has not supplied: a free value (R22, decision D15; log 1). -/
opaque freeKeys : Nat → BitVec 16

/-- The byte of the `n`-th draw that the host has not supplied: a free value (R23, decision D9; log 2). -/
opaque freeRnd : Nat → BitVec 8

end Sys2Proof.Config
end

