-- ==== Sys2Proof/Machine/State.lean ====
section
/-! DEFINITION. The state of the core: the list of 10_state.md section 1, and the model's own fields (`font` and the
two input streams). -/

namespace Sys2Proof.Machine

/-- `RUN` (R20). -/
inductive RunState where
  /-- `step` fetches and executes an instruction. -/
  | running
  /-- An `LD Vx,K` has been executed and no key has been delivered. -/
  | waiting
  /-- A step has raised a fault; only `reset` leaves this state (R177). -/
  | faulted
  deriving DecidableEq, Repr

/-- `FAULT` (R21, R170). The faults of the spec are recorded in the state; taking one is a next state (R176, log 4). -/
inductive FaultCode where
  /-- `None`, code 0. -/
  | noFault
  /-- Code 1, raised by decode (R171). -/
  | invalidOpcode
  /-- Code 2, raised by fetch and by the instructions of R172. -/
  | outOfBounds
  /-- Code 3, raised by `RET` (R173). -/
  | stackUnderflow
  /-- Code 4, raised by `CALL` (R174). -/
  | stackOverflow
  /-- Code 5, raised by `LD F,Vx` (R175). -/
  | invalidDigit
  deriving DecidableEq, Repr

/-- An input of the coming steps (the MODEL's own, not state of the spec: R22, R23, R26; logs 1 and 2). -/
structure InputStream (w : Nat) where
  /-- The values the host has supplied for the coming samples, the next one first. -/
  given : List (BitVec w)
  /-- How many samples have been taken. -/
  taken : Nat
  deriving DecidableEq, Repr

/-- The framebuffer: 32 rows of 64 one-bit pixels, column `x` of row `y` being bit `x` of entry `y` (R18). -/
abbrev Framebuffer := Vector (BitVec 64) 32

/-- Memory as the cells that differ from the reset contents, in canonical form (`Memory.wf`). -/
abbrev Memory := List Host.Cell

structure State where
  /-- `V[0..15]` (R10, R11). -/
  v : Vector Byte 16
  /-- `I` (R12). -/
  i : Word
  /-- `PC` (R13). -/
  pc : Word
  /-- `DT` (R14). -/
  dt : Byte
  /-- `ST` (R15). -/
  st : Byte
  /-- `MEM` (R16). -/
  mem : Memory
  /-- `STACK[0..15]` (R17). -/
  stack : Vector Word 16
  /-- `SP`, the number of valid stack entries, 0 to 16 (R17). -/
  sp : Fin 17
  /-- `FB` (R18). -/
  fb : Framebuffer
  /-- `REDRAW` (R19). -/
  redraw : Bool
  /-- `RUN` (R20). -/
  run : RunState
  /-- `WAITREG` (R20). -/
  waitReg : Reg
  /-- `FAULT` (R21). -/
  fault : FaultCode
  /-- `FAULTOP` (R21). -/
  faultOp : Word
  /-- The MODEL's own: the parameter `FONT[0..79]` of this machine (R4, log 3); nothing writes it. -/
  font : Vector Byte 80
  /-- The MODEL's own: the inputs `KEYS` of the coming steps (R22, log 1). -/
  keyIn : InputStream 16
  /-- The MODEL's own: the inputs `rnd` of the coming steps (R23, log 2). -/
  rndIn : InputStream 8
  deriving DecidableEq, Repr

/-- The reasons for which the model itself would stop with a fault: there are none. Every fault of the spec is an
entry into `FAULTED`, a next state (R176, log 4), and every address is checked before it is used (R41), so that a
step never ends in an outcome of this kind. -/
inductive Fault where
  deriving DecidableEq, Repr

/-- The reasons for which the model gives no meaning. -/
inductive Refusal where
  /-- An instruction without a meaning, named by its mnemonic; raised by no arm of `exec`. Safe. -/
  | notModelled (mnemonic : String)
  /-- `load_program` elsewhere than directly after `reset` (a step or another load came first, or the state is not the
  one `reset` left): raised by the host operation only, never by a step (R201, decision D17, U21; log 14). Safe. -/
  | loadOutsidePrecondition
  deriving DecidableEq, Repr

/-- What a step, or the meaning of an instruction, answers. -/
abbrev Result := Host.Outcome State Fault Refusal

/-- The machine right after `reset()` (R27, R200): every value is the spec's; `REDRAW`, `RUN`, `WAITREG`, `FAULT` and
`FAULTOP` by its decision D11 (log 10). `font` is the default table (PRESUMED, log 3) and no input has been supplied
(DESIGN CHOICE, logs 1 and 2). -/
def State.reset : State where
  v := Vector.replicate 16 0
  i := 0
  pc := BitVec.ofNat 16 Config.progBase
  dt := 0
  st := 0
  mem := []
  stack := Vector.replicate 16 0
  sp := 0
  fb := Vector.replicate 32 0
  redraw := false
  run := .running
  waitReg := 0
  fault := .noFault
  faultOp := 0
  font := defaultFont
  keyIn := { given := [], taken := 0 }
  rndIn := { given := [], taken := 0 }

end Sys2Proof.Machine
end

