-- ==== Sys2Proof/Machine/Flags.lean ====
section
/-! DEFINITION. The values the six flag-writing instructions give `VF` (R11). -/

namespace Sys2Proof.Machine

/-- A flag as it stands in `VF`: 0x00 or 0x01. -/
def flagByte (f : Bool) : Byte := if f then 1 else 0

/-- `ADD Vx,Vy`: the unsigned sum exceeds 255 (R127). -/
def carryOut (a b : Byte) : Bool := decide (a.toNat + b.toNat > 255)

/-- `SUB`, `SUBN`: NOT borrow, the minuend is at least the subtrahend (R128, R130). -/
def notBorrow (minuend subtrahend : Byte) : Bool := decide (minuend.toNat ≥ subtrahend.toNat)

/-- `SHR`: bit 0 before the shift (R129). -/
def lowBit (a : Byte) : Bool := a.getLsbD 0

/-- `SHL`: bit 7 before the shift (R131). -/
def highBit (a : Byte) : Bool := a.getLsbD 7

end Sys2Proof.Machine
end

