-- ==== Sys2Proof/Machine/Memory.lean ====
section
/-! DEFINITION. Memory: what an unlisted address reads as, the read and the write of one byte, the canonical form. -/

namespace Sys2Proof.Machine

/-- What an unlisted address reads as: the contents `reset` leaves, `FONT[a]` at 0 to 79 and zero elsewhere
(R16, R45, R200). -/
def resetByte (font : Vector Byte 80) (a : Nat) : Byte := if h : a < 80 then font[a] else 0

/-- The listed byte at an address. -/
def Memory.lookup : Memory → Nat → Option Byte
  | [], _ => none
  | (b, w) :: rest, a => if b = a then some w else Memory.lookup rest a

/-- `MEM[a]`, with no check (R6). -/
def Memory.read (font : Vector Byte 80) (m : Memory) (a : Nat) : Byte := (m.lookup a).getD (resetByte font a)

/-- List a byte at an address, in the rising order of the addresses. -/
def Memory.put : Memory → Nat → Byte → Memory
  | [], a, x => [(a, x)]
  | (b, w) :: rest, a, x =>
    if a < b then (a, x) :: (b, w) :: rest
    else if a = b then (a, x) :: rest
    else (b, w) :: Memory.put rest a x

/-- Remove every entry of an address. -/
def Memory.unlist : Memory → Nat → Memory
  | [], _ => []
  | (b, w) :: rest, a => if b = a then Memory.unlist rest a else (b, w) :: Memory.unlist rest a

/-- `MEM[a] <- x`, with no check (R6); a byte equal to the reset contents is not listed. -/
def Memory.write (font : Vector Byte 80) (m : Memory) (a : Nat) (x : Byte) : Memory :=
  if x = resetByte font a then m.unlist a else m.put a x

/-- The canonical form: addresses strictly rising and inside the address space (R16), no entry equal to what an
unlisted address reads as. -/
abbrev Memory.wf (font : Vector Byte 80) (m : Memory) : Prop :=
  m.Pairwise (fun c d => c.1 < d.1) ∧ ∀ c ∈ m, c.1 < Config.memSize ∧ c.2 ≠ resetByte font c.1

/-- Every one of the `count` addresses from `base` is below 4096, computed on natural numbers (R41, R44); true when
there is none. -/
def rangeInBounds (base count : Nat) : Bool := count == 0 || decide (base + (count - 1) < Config.memSize)

end Sys2Proof.Machine
end

