-- ==== Sys2Proof/Machine/Ops.lean ====
section
/-! DEFINITION. The named operations over the state: registers, program counter, memory, stack, inputs, taking a
fault. An instruction computes all it needs from the state before the step and then applies its writes, so that a
fault writes nothing but its record (R84, R85). -/

namespace Sys2Proof.Machine

/-! ### Registers -/

/-- `V[r]` (R10). -/
def State.reg (s : State) (r : Reg) : Byte := s.v[r]

/-- `V[r] <- b` (R10). -/
def State.setReg (s : State) (r : Reg) (b : Byte) : State := { s with v := s.v.set r.val b r.isLt }

/-- `V[x] <- result`, and `VF` last, so that the flag is what remains when `x = 15` (R11, R85, conflict C3). -/
def State.setResultAndFlag (s : State) (x : Reg) (result : Byte) (flag : Bool) : State :=
  (s.setReg x result).setReg vf (flagByte flag)

/-- `I <- w` (R12). -/
def State.setI (s : State) (w : Word) : State := { s with i := w }

/-- `DT <- b` (R14). -/
def State.setDt (s : State) (b : Byte) : State := { s with dt := b }

/-- `ST <- b` (R15). -/
def State.setSt (s : State) (b : Byte) : State := { s with st := b }

/-! ### Program counter (R82, R83) -/

/-- The post-fetch program counter, `PC + 2` (R82). A step executes only when `PC <= 4094`, so that the sum does not
wrap there (log 19). -/
def State.npc (s : State) : Word := s.pc + 2

/-- `PC <- npc`. -/
def State.advance (s : State) : State := { s with pc := s.npc }

/-- `PC <- target`. -/
def State.jump (s : State) (target : Word) : State := { s with pc := target }

/-- The skip convention: `PC <- npc + 2` when the condition is true, else `PC <- npc` (R86). -/
def State.skipWhen (s : State) (c : Bool) : State := { s with pc := if c then s.npc + 2 else s.npc }

/-! ### Memory (20_memory.md) -/

/-- `MEM[a]`. -/
def State.byteAt (s : State) (a : Nat) : Byte := Memory.read s.font s.mem a

/-- `MEM[a] <- b`. -/
def State.storeByte (s : State) (a : Nat) (b : Byte) : State := { s with mem := Memory.write s.font s.mem a b }

/-- Store bytes at ascending addresses. -/
def State.storeBytes (s : State) (a : Nat) : List Byte → State
  | [] => s
  | b :: rest => (s.storeByte a b).storeBytes (a + 1) rest

/-- `MEM[a]`, `MEM[a + 1]`, ..., `count` bytes. -/
def State.bytesAt (s : State) (a count : Nat) : List Byte := (List.range count).map fun k => s.byteAt (a + k)

/-- The opcode at `PC`, big-endian (R40, R81); none when `PC + 1 >= 4096`. -/
def State.fetch (s : State) : Option Word :=
  if s.pc.toNat + 1 < Config.memSize then
    some (wordOfBytes (s.byteAt s.pc.toNat) (s.byteAt (s.pc.toNat + 1)))
  else none

/-! ### The call stack (R17) -/

/-- `STACK[SP - 1]`; used only when `SP` is not 0. -/
def State.top (s : State) : Word := s.stack[s.sp.val - 1]'(by have := s.sp.isLt; omega)

/-- `STACK[SP] <- w; SP <- SP + 1`; used only when `SP` is below 16. -/
def State.push (s : State) (w : Word) : State :=
  if h : s.sp.val < Config.stackDepth then
    { s with stack := s.stack.set s.sp.val w h, sp := ⟨s.sp.val + 1, Nat.succ_lt_succ h⟩ }
  else s

/-- `SP <- SP - 1`; the popped slot keeps its contents. -/
def State.pop (s : State) : State := { s with sp := ⟨s.sp.val - 1, by have := s.sp.isLt; omega⟩ }

/-! ### Display and key wait -/

/-- Replace the framebuffer and mark a redraw pending (R19, R150, R151, conflict C5). -/
def State.present (s : State) (fb : Framebuffer) : State := { s with fb := fb, redraw := true }

/-- `WAITREG <- x; RUN <- WAITING` (R161). -/
def State.enterWait (s : State) (x : Reg) : State := { s with waitReg := x, run := .waiting }

/-! ### The two inputs of a step (R22, R23; logs 1 and 2) -/

/-- The next sample of an input: what the host has supplied, else the free value of that sample. -/
def InputStream.value {w : Nat} (c : InputStream w) (free : Nat → BitVec w) : BitVec w :=
  match c.given with
  | [] => free c.taken
  | k :: _ => k

/-- The stream after a sample was taken. -/
def InputStream.advance {w : Nat} (c : InputStream w) : InputStream w :=
  { given := c.given.tail, taken := c.taken + 1 }

/-- `KEYS` of this step. -/
def State.keys (s : State) : BitVec 16 := s.keyIn.value Config.freeKeys

/-- `rnd` of this step. -/
def State.rnd (s : State) : Byte := s.rndIn.value Config.freeRnd

/-- `KEYS` has been read. -/
def State.keysTaken (s : State) : State := { s with keyIn := s.keyIn.advance }

/-- `rnd` has been read. -/
def State.rndTaken (s : State) : State := { s with rndIn := s.rndIn.advance }

/-! ### Taking a fault (R176) -/

/-- `raise F`: nothing the instruction computed is written, `PC` stays, `RUN <- FAULTED`, `FAULT <- F`. There is no
handler, nothing is saved elsewhere, and no instruction returns from a fault: only `reset` leaves `FAULTED` (R177). -/
def State.raise (s : State) (f : FaultCode) : State := { s with run := .faulted, fault := f }

/-- `raise InvalidOpcode(op)`: also `FAULTOP <- op` (R171, R176). -/
def State.raiseInvalidOpcode (s : State) (op : Word) : State :=
  { s with run := .faulted, fault := .invalidOpcode, faultOp := op }

/-- A step whose word the decoder rejects raises `InvalidOpcode` with that word (R66, R171). A fetched word is never
too short. -/
def State.rejectWord (s : State) (op : Word) : DecodeError → State
  | .invalidOpcode _ => s.raiseInvalidOpcode op
  | .tooShort => s.raiseInvalidOpcode op

end Sys2Proof.Machine
end

