-- ==== Sys2Proof/Machine/Operands.lean ====
section
/-! DEFINITION. The operand forms of R63 and R147 beyond a single register. -/

namespace Sys2Proof.Machine

/-- `zext_16(nnn)` (R63). -/
def zextAddr (nnn : Addr) : Word := nnn.zeroExtend 16

/-- `zext_16` of a byte (R63). -/
def zextByte (b : Byte) : Word := b.zeroExtend 16

/-- The range `V[0..x]`, `x + 1` registers, `V[0]` first (R144). -/
def State.regsUpTo (s : State) (x : Reg) : List Byte := s.v.toList.take (x.val + 1)

/-- `V[k] <- MEM[base + k]` for `k` in 0..x; the registers above `x` stay (R145). -/
def State.loadRegsUpTo (s : State) (x : Reg) (base : Nat) : State :=
  { s with v := Vector.ofFn fun k : Fin 16 => if k ≤ x then s.byteAt (base + k.val) else s.reg k }

/-- The decimal digits of a byte, hundreds first (R143). -/
def bcdDigits (b : Byte) : List Byte :=
  [BitVec.ofNat 8 (b.toNat / 100), BitVec.ofNat 8 (b.toNat / 10 % 10), BitVec.ofNat 8 (b.toNat % 10)]

/-- The address of the font glyph of a digit, `FONT_BASE + 5 * digit` (R142). -/
def glyphAddr (digit : Byte) : Word := BitVec.ofNat 16 (digit.toNat * 5)

/-- The state of the key whose index is a byte: none when the index is outside the keypad (R114, decision D7). -/
def keyHeld (keys : BitVec 16) (index : Byte) : Option Bool :=
  if index.toNat ≤ 15 then some (keys.getLsbD index.toNat) else none

end Sys2Proof.Machine
end

