-- ==== Sys2Proof/Machine/Alu.lean ====
section
/-! DEFINITION. Register and ALU instructions (43_alu.md): unsigned 8-bit arithmetic modulo 256 (R120). -/

namespace Sys2Proof.Machine

/-- `LD Vx,kk` (R121). -/
def execLdVxKk (x : Reg) (kk : Byte) (s : State) : Result := .next (s.setReg x kk).advance

/-- `ADD Vx,kk`: no flag (R122). -/
def execAddVxKk (x : Reg) (kk : Byte) (s : State) : Result := .next (s.setReg x (s.reg x + kk)).advance

/-- `LD Vx,Vy` (R123). -/
def execLdVxVy (x y : Reg) (s : State) : Result := .next (s.setReg x (s.reg y)).advance

/-- `OR Vx,Vy`: no flag (R124). -/
def execOrVxVy (x y : Reg) (s : State) : Result := .next (s.setReg x (s.reg x ||| s.reg y)).advance

/-- `AND Vx,Vy`: no flag (R125). -/
def execAndVxVy (x y : Reg) (s : State) : Result := .next (s.setReg x (s.reg x &&& s.reg y)).advance

/-- `XOR Vx,Vy`: no flag (R126). -/
def execXorVxVy (x y : Reg) (s : State) : Result := .next (s.setReg x (s.reg x ^^^ s.reg y)).advance

/-- `ADD Vx,Vy`: the carry in `VF` (R127). -/
def execAddVxVy (x y : Reg) (s : State) : Result :=
  .next (s.setResultAndFlag x (s.reg x + s.reg y) (carryOut (s.reg x) (s.reg y))).advance

/-- `SUB Vx,Vy`: NOT borrow in `VF` (R128). -/
def execSubVxVy (x y : Reg) (s : State) : Result :=
  .next (s.setResultAndFlag x (s.reg x - s.reg y) (notBorrow (s.reg x) (s.reg y))).advance

/-- `SHR Vx`: the bit shifted out in `VF`; `y` is ignored (R129). -/
def execShrVx (x _y : Reg) (s : State) : Result :=
  .next (s.setResultAndFlag x (s.reg x >>> 1) (lowBit (s.reg x))).advance

/-- `SUBN Vx,Vy`: `V[y] - V[x]`, NOT borrow in `VF` (R130). -/
def execSubnVxVy (x y : Reg) (s : State) : Result :=
  .next (s.setResultAndFlag x (s.reg y - s.reg x) (notBorrow (s.reg y) (s.reg x))).advance

/-- `SHL Vx`: the bit shifted out in `VF`; `y` is ignored (R131). -/
def execShlVx (x _y : Reg) (s : State) : Result :=
  .next (s.setResultAndFlag x (s.reg x <<< 1) (highBit (s.reg x))).advance

/-- `RND Vx,kk` (R132). -/
def execRndVxKk (x : Reg) (kk : Byte) (s : State) : Result := .next (s.rndTaken.setReg x (s.rnd &&& kk)).advance

end Sys2Proof.Machine
end

