-- ==== Sys2Proof/Machine/ControlFlow.lean ====
section
/-! DEFINITION. Control transfer (41_control_flow.md). -/

namespace Sys2Proof.Machine

/-- `SYS addr`: nothing but the advance (R100). -/
def execSys (_nnn : Addr) (s : State) : Result := .next s.advance

/-- `RET` (R101). -/
def execRet (s : State) : Result :=
  .next (if s.sp.val = 0 then s.raise .stackUnderflow else s.pop.jump s.top)

/-- `JP addr` (R102). -/
def execJp (nnn : Addr) (s : State) : Result := .next (s.jump (zextAddr nnn))

/-- `CALL addr` (R103). -/
def execCall (nnn : Addr) (s : State) : Result :=
  .next (if s.sp.val = Config.stackDepth then s.raise .stackOverflow else (s.push s.npc).jump (zextAddr nnn))

/-- `JP V0,addr`: the sum is not reduced to 12 bits (R104). -/
def execJpV0Addr (nnn : Addr) (s : State) : Result := .next (s.jump (zextAddr nnn + zextByte (s.reg 0)))

end Sys2Proof.Machine
end

