-- ==== Sys2Proof/Machine/Sprite.lean ====
section
/-! DEFINITION. The framebuffer and the sprite engine (R18, R151, R152). -/

namespace Sys2Proof.Machine

/-- All pixels unset. -/
def blankScreen : Framebuffer := Vector.replicate 32 0

/-- `FB[p]`, `p = y*64 + x` (R18); false outside 0..2047. -/
def Framebuffer.pixel (fb : Framebuffer) (p : Nat) : Bool :=
  if h : p / 64 < 32 then fb[p / 64].getLsbD (p % 64) else false

/-- `FB[p] <- FB[p] ^ 1`. -/
def Framebuffer.toggle (fb : Framebuffer) (p : Nat) : Framebuffer :=
  if h : p / 64 < 32 then fb.set (p / 64) (fb[p / 64] ^^^ (1#64 <<< (p % 64))) else fb

/-- The target pixel index, wrapping on both axes: `(row mod 32)*64 + (column mod 64)`, 0 to 2047 (R151). -/
def pixelIndex (column row : Nat) : Nat := (row % 32) * 64 + column % 64

/-- A sprite bit that is 1 lands on pixel `p`: a set pixel is a collision, and the pixel is toggled. -/
def plot (p : Nat) (drawn : Framebuffer × Bool) : Framebuffer × Bool :=
  (drawn.1.toggle p, drawn.2 || drawn.1.pixel p)

/-- The bit of a sprite row that column `dx` shows, mask `0x80 >> dx` (R152). -/
def spriteBit (b : Byte) (dx : Nat) : Bool := b &&& (0x80#8 >>> dx) != 0

/-- One sprite row: for each of 8 columns, plot the pixel if the bit is set. -/
def drawRow (b : Byte) (column row : Nat) (drawn : Framebuffer × Bool) : Framebuffer × Bool :=
  (List.range 8).foldl
    (fun acc dx => if spriteBit b dx then plot (pixelIndex (column + dx) row) acc else acc) drawn

/-- The rows of a sprite from the top one down. -/
def drawRows (column : Nat) : List Byte → Nat → Framebuffer × Bool → Framebuffer × Bool
  | [], _, drawn => drawn
  | b :: rest, row, drawn => drawRows column rest (row + 1) (drawRow b column row drawn)

/-- The whole sprite on a framebuffer: the new framebuffer and whether any collision occurred (R151). -/
def drawSprite (fb : Framebuffer) (column row : Nat) (rows : List Byte) : Framebuffer × Bool :=
  drawRows column rows row (fb, false)

end Sys2Proof.Machine
end

