-- ==== Sys2Proof/Machine/Display.lean ====
section
/-! DEFINITION. Display instructions (45_display.md). -/

namespace Sys2Proof.Machine

/-- `CLS` (R150). -/
def execCls (s : State) : Result := .next (s.present blankScreen).advance

/-- The framebuffer and the collision a `DRW Vx,Vy,n` leaves: the coordinates are the old registers, also when `x` or
`y` is 15 (R151, conflict C4). -/
def State.drawn (s : State) (x y : Reg) (n : Fin 16) : Framebuffer × Bool :=
  drawSprite s.fb (s.reg x).toNat (s.reg y).toNat (s.bytesAt s.i.toNat n.val)

/-- `DRW Vx,Vy,n` (R151). -/
def execDrwVxVyN (x y : Reg) (n : Fin 16) (s : State) : Result :=
  .next (if rangeInBounds s.i.toNat n.val then
      ((s.present (s.drawn x y n).1).setReg vf (flagByte (s.drawn x y n).2)).advance
    else s.raise .outOfBounds)

end Sys2Proof.Machine
end

