-- ==== Sys2Proof/Machine/IndexMemory.lean ====
section
/-! DEFINITION. Index register and memory instructions (44_index_memory.md). No memory instruction changes `I` (R147). -/

namespace Sys2Proof.Machine

/-- `LD I,addr` (R140). -/
def execLdIAddr (nnn : Addr) (s : State) : Result := .next (s.setI (zextAddr nnn)).advance

/-- `ADD I,Vx`: 16-bit sum, no flag (R141; log 9). -/
def execAddIVx (x : Reg) (s : State) : Result := .next (s.setI (s.i + zextByte (s.reg x))).advance

/-- `LD F,Vx`: a value above 15 faults (R142, R175). -/
def execLdFVx (x : Reg) (s : State) : Result :=
  .next (if (s.reg x).toNat > 15 then s.raise .invalidDigit else (s.setI (glyphAddr (s.reg x))).advance)

/-- `LD B,Vx` (R143). -/
def execLdBVx (x : Reg) (s : State) : Result :=
  .next (if rangeInBounds s.i.toNat 3 then (s.storeBytes s.i.toNat (bcdDigits (s.reg x))).advance
    else s.raise .outOfBounds)

/-- `LD [I],Vx` (R144). -/
def execLdMemVx (x : Reg) (s : State) : Result :=
  .next (if rangeInBounds s.i.toNat (x.val + 1) then (s.storeBytes s.i.toNat (s.regsUpTo x)).advance
    else s.raise .outOfBounds)

/-- `LD Vx,[I]` (R145). -/
def execLdVxMem (x : Reg) (s : State) : Result :=
  .next (if rangeInBounds s.i.toNat (x.val + 1) then (s.loadRegsUpTo x s.i.toNat).advance
    else s.raise .outOfBounds)

end Sys2Proof.Machine
end

