-- ==== Sys2Proof/Machine/Skips.lean ====
section
/-! DEFINITION. Conditional skips (42_skips.md). -/

namespace Sys2Proof.Machine

/-- `SE Vx,kk` (R110). -/
def execSeVxKk (x : Reg) (kk : Byte) (s : State) : Result := .next (s.skipWhen (s.reg x == kk))

/-- `SNE Vx,kk` (R111). -/
def execSneVxKk (x : Reg) (kk : Byte) (s : State) : Result := .next (s.skipWhen (s.reg x != kk))

/-- `SE Vx,Vy` (R112). -/
def execSeVxVy (x y : Reg) (s : State) : Result := .next (s.skipWhen (s.reg x == s.reg y))

/-- `SNE Vx,Vy` (R113). -/
def execSneVxVy (x y : Reg) (s : State) : Result := .next (s.skipWhen (s.reg x != s.reg y))

/-- Skip when the key that `V[x]` names is held or not, as wanted; an index outside the keypad faults (R114, R115,
decision D7; log 7). -/
def skipOnKey (x : Reg) (wanted : Bool) (s : State) : State :=
  match keyHeld s.keys (s.reg x) with
  | none => s.raise .outOfBounds
  | some held => s.keysTaken.skipWhen (held == wanted)

/-- `SKP Vx` (R114). -/
def execSkpVx (x : Reg) (s : State) : Result := .next (skipOnKey x true s)

/-- `SKNP Vx` (R115). -/
def execSknpVx (x : Reg) (s : State) : Result := .next (skipOnKey x false s)

end Sys2Proof.Machine
end

