-- ==== Sys2Proof/Machine/TimersKeys.lean ====
section
/-! DEFINITION. Timer and key-wait instructions (46_timers_keys.md). -/

namespace Sys2Proof.Machine

/-- `LD Vx,DT` (R160). -/
def execLdVxDt (x : Reg) (s : State) : Result := .next (s.setReg x s.dt).advance

/-- `LD Vx,K`: enter the wait; `V[x]` is written by `resume`, and `KEYS` is not looked at (R161; log 8). -/
def execLdVxK (x : Reg) (s : State) : Result := .next (s.enterWait x).advance

/-- `LD DT,Vx` (R163). -/
def execLdDtVx (x : Reg) (s : State) : Result := .next (s.setDt (s.reg x)).advance

/-- `LD ST,Vx` (R164). -/
def execLdStVx (x : Reg) (s : State) : Result := .next (s.setSt (s.reg x)).advance

end Sys2Proof.Machine
end

