-- ==== Sys2Proof/Machine/Step.lean ====
section
/-! DEFINITION. The operation `step` (R80). -/

namespace Sys2Proof.Machine

/-- `step(KEYS, rnd)`, the inputs taken from the input streams of the state. In `WAITING` and `FAULTED` nothing is
fetched and nothing changes (R88); else fetch (R81), decode (R65), execute. The result the host sees is
`State.stepResult` of the state after it (R87). -/
def step (s : State) : Host.Outcome State Fault Refusal :=
  match s.run with
  | .faulted => .next s
  | .waiting => .next s
  | .running =>
    match s.fetch with
    | none => .next (s.raise .outOfBounds)
    | some op =>
      match decode op with
      | .ok i => exec i s
      | .error e => .next (s.rejectWord op e)

/-- `s` with the instruction word `w` of `nbits` bits stored at `PC`, the high byte at the lower address (R40). A
fetch needs `RUN = RUNNING` and `PC <= 4094` (R80, R81), so `RUN` becomes `RUNNING`, and a `PC` from which no fetch
is possible becomes 0x200 (log 17). -/
def State.withFetchWord (s : State) (nbits w : Nat) : State :=
  let at' : Nat := if s.pc.toNat + 1 < Config.memSize then s.pc.toNat else Config.progBase
  State.storeBytes { s with run := .running, pc := BitVec.ofNat 16 at' } at'
    (bytesOfWord (BitVec.ofNat 16 (w % 2 ^ nbits)))

end Sys2Proof.Machine
end

