-- ==== Sys2Proof/Machine/HostOps.lean ====
section
/-! DEFINITION. The operations the host applies to the core (R24) and their results (R24, R87). A run of the hardware
is any sequence of them that starts with `reset` (R202); the order is the host's (log 13). -/

namespace Sys2Proof.Machine

/-- The result of an operation. -/
inductive OpResult where
  /-- The operation has none. -/
  | nothing
  | ok
  | waitingForKey
  | fault (code : FaultCode)
  | romTooLarge
  deriving DecidableEq, Repr

/-- The numeric codes of R170 (decision D6, log 23). -/
def FaultCode.code : FaultCode → Nat
  | .noFault => 0
  | .invalidOpcode => 1
  | .outOfBounds => 2
  | .stackUnderflow => 3
  | .stackOverflow => 4
  | .invalidDigit => 5

/-- The code of a result in the one number space of R180: a fault's own code (R170), and 6 for `RomTooLarge`. DESIGN
CHOICE (log 25): the spec numbers no other result; the model gives `Ok` the number 0, that of no fault, and gives
`WaitingForKey`, and an operation without a result, none. -/
def OpResult.code : OpResult → Option Nat
  | .nothing => none
  | .ok => some 0
  | .waitingForKey => none
  | .fault c => some c.code
  | .romTooLarge => some 6

/-- The result of a `step`, read off the state it leaves (R80, R87). -/
def State.stepResult (s : State) : OpResult :=
  match s.run with
  | .running => .ok
  | .waiting => .waitingForKey
  | .faulted => .fault s.fault

/-- `reset()` in any state (R200, D14). The parameter `FONT` and the two inputs are no state of the core and stay. -/
def State.afterReset (s : State) : State :=
  { State.reset with font := s.font, keyIn := s.keyIn, rndIn := s.rndIn }

/-- `step(KEYS, rnd)` with the inputs as arguments (R80, R89): they stand for this one step only. -/
def stepOn (keys : BitVec 16) (rnd : Byte) (s : State) : Result :=
  match step { s with keyIn := { given := [keys], taken := 0 }, rndIn := { given := [rnd], taken := 0 } } with
  | .next t => .next { t with keyIn := s.keyIn, rndIn := s.rndIn }
  | .fault r => .fault r
  | .refused r => .refused r

/-- `resume(k)`: only in `WAITING`, `V[WAITREG] <- k` and `RUN <- RUNNING` (R162, D14). -/
def State.resume (s : State) (k : Key) : State :=
  match s.run with
  | .waiting => { s.setReg s.waitReg (BitVec.ofNat 8 k.val) with run := .running }
  | .running => s
  | .faulted => s

/-- A timer at 0 stays at 0, else it goes down by one (R184). -/
def countDown (b : Byte) : Byte := if b = 0 then 0 else b - 1

/-- `tick_timers()`, in every run state (R184). -/
def State.tickTimers (s : State) : State := { s with dt := countDown s.dt, st := countDown s.st }

/-- `clear_redraw()`, in every run state (R185). -/
def State.clearRedraw (s : State) : State := { s with redraw := false }

/-! ### The operations over a session -/

/-- The core as the host drives it. R201 lets `load_program` follow `reset` only; whether it may still do so is a fact
about the operations applied so far and no state of the core (10_state.md section 1 lists all of that), so it stands
here beside the core (the MODEL's own, log 26). -/
structure Session where
  /-- The state of the core. -/
  core : State
  /-- `reset` has been applied, and since then neither a `step` nor a load that was answered `Ok`. -/
  fresh : Bool
  deriving DecidableEq, Repr

/-- The session right after `reset()`. -/
def Session.reset : Session := { core := State.reset, fresh := true }

/-- The precondition of `load_program`: the state is the one `reset()` left, and no `step` and no other load has been
applied since (R201, decision D17, U21; log 14). -/
def Session.loadable (r : Session) : Bool := r.fresh && decide (r.core = r.core.afterReset)

/-- The operations of R24. -/
inductive Operation where
  | reset
  | loadProgram (bytes : List Byte)
  | step (keys : BitVec 16) (rnd : Byte)
  | resume (k : Key)
  | tickTimers
  | clearRedraw
  deriving DecidableEq, Repr

/-- What an operation of the host answers. -/
abbrev OpOutcome := Host.Outcome (Session × OpResult) Fault Refusal

/-- `load_program(bytes)` (R201): refused outside its precondition, `RomTooLarge` above 3584 bytes with nothing
written, else the bytes are copied from 0x200 on. -/
def loadProgram (bytes : List Byte) (r : Session) : OpOutcome :=
  if r.loadable then
    if bytes.length > Config.progMax then .next (r, .romTooLarge)
    else .next ({ core := r.core.storeBytes Config.progBase bytes, fresh := false }, .ok)
  else .refused .loadOutsidePrecondition

/-- `step(KEYS, rnd)` as an operation: its result is read off the state it leaves, and from then on a step has been
applied. -/
def hostStep (keys : BitVec 16) (rnd : Byte) (r : Session) : OpOutcome :=
  match stepOn keys rnd r.core with
  | .next t => .next ({ core := t, fresh := false }, t.stepResult)
  | .fault f => .fault f
  | .refused f => .refused f

/-- One operation of the host: the session after it and its result (R24). -/
def apply (o : Operation) (r : Session) : OpOutcome :=
  match o with
  | .reset => .next ({ core := r.core.afterReset, fresh := true }, .nothing)
  | .loadProgram bytes => loadProgram bytes r
  | .step keys rnd => hostStep keys rnd r
  | .resume k => .next ({ r with core := r.core.resume k }, .nothing)
  | .tickTimers => .next ({ r with core := r.core.tickTimers }, .nothing)
  | .clearRedraw => .next ({ r with core := r.core.clearRedraw }, .nothing)

end Sys2Proof.Machine
end

