-- ==== Sys2Proof/Safety.lean ====
section
/-! DEFINITION. The terms in which claims about the machine are stated: what stays unchanged, the invariant of the
state, reachable states, a safe state, the end of a run. -/

namespace Sys2Proof.Machine

/-! ### Frames -/

/-- The pieces of the state. -/
inductive Component where
  | v | i | pc | dt | st | mem | stack | sp | fb | redraw | run | waitReg | fault | faultOp | font | keyIn | rndIn
  deriving DecidableEq, Repr

/-- Two states agree on a piece; on memory, every byte reads the same. -/
def Same (s t : State) : Component → Prop
  | .v => ∀ r, t.reg r = s.reg r
  | .i => t.i = s.i
  | .pc => t.pc = s.pc
  | .dt => t.dt = s.dt
  | .st => t.st = s.st
  | .mem => ∀ a, t.byteAt a = s.byteAt a
  | .stack => t.stack = s.stack
  | .sp => t.sp = s.sp
  | .fb => t.fb = s.fb
  | .redraw => t.redraw = s.redraw
  | .run => t.run = s.run
  | .waitReg => t.waitReg = s.waitReg
  | .fault => t.fault = s.fault
  | .faultOp => t.faultOp = s.faultOp
  | .font => t.font = s.font
  | .keyIn => t.keyIn = s.keyIn
  | .rndIn => t.rndIn = s.rndIn

/-- From `s` to `t` only the listed pieces may have changed. -/
def OnlyChanges (written : List Component) (s t : State) : Prop := ∀ c, c ∉ written → Same s t c

/-- Every register outside the list is unchanged. -/
def RegsKeptBut (written : List Reg) (s t : State) : Prop := ∀ r, r ∉ written → t.reg r = s.reg r

/-- Every byte outside the `count` bytes from `a` is unchanged. -/
def BytesKeptOutside (a count : Nat) (s t : State) : Prop :=
  ∀ b, (b < a ∨ a + count ≤ b) → t.byteAt b = s.byteAt b

/-- `t` is `s` with the fault `f` taken and nothing else changed (R176). -/
def TookFault (f : FaultCode) (s t : State) : Prop :=
  t.run = .faulted ∧ t.fault = f ∧ OnlyChanges [.run, .fault] s t

/-! ### The invariant -/

/-- What every operation keeps (`PC` at most 0x10FE: R13, R104; stack entries as `CALL` pushes them: R17, R103; the
fault record written exactly by faults: R21, R176). -/
structure State.Inv (s : State) : Prop where
  /-- The memory is in canonical form. -/
  memoryCanonical : Memory.wf s.font s.mem
  /-- `PC` never exceeds the largest value `JP V0,addr` can give. -/
  pcBound : s.pc.toNat ≤ 0x10FE
  /-- Every valid stack entry is a post-fetch program counter. -/
  stackEntries : ∀ k : Fin 16, k.val < s.sp.val → 2 ≤ (s.stack[k]).toNat ∧ (s.stack[k]).toNat ≤ 4096
  /-- A fault is recorded exactly when the core is halted. -/
  faultRecorded : s.run = .faulted ↔ s.fault ≠ .noFault
  /-- `FAULTOP` is written by `InvalidOpcode` only. -/
  faultOpUnused : s.fault ≠ .invalidOpcode → s.faultOp = 0
  /-- The recorded opcode is illegal. -/
  faultOpIllegal : s.fault = .invalidOpcode → decode s.faultOp = .error (.invalidOpcode s.faultOp)

/-- The invariant of a session: that of the core, and the core of a fresh session is as `reset` left it (R201). -/
structure Session.Inv (r : Session) : Prop where
  core : r.core.Inv
  freshIsReset : r.fresh = true → r.core = r.core.afterReset

/-! ### Tables of the spec that whole-machine claims use -/

/-- The fault of an instruction, by the tables of R170 and R172: none when it has none in this state. -/
def faultOf (s : State) : Instr → Option FaultCode
  | .ret => if s.sp.val = 0 then some .stackUnderflow else none
  | .call _ => if s.sp.val = 16 then some .stackOverflow else none
  | .skpVx x | .sknpVx x => if (s.reg x).toNat > 15 then some .outOfBounds else none
  | .ldFVx x => if (s.reg x).toNat > 15 then some .invalidDigit else none
  | .ldBVx _ => if s.i.toNat + 2 ≥ 4096 then some .outOfBounds else none
  | .ldMemVx x | .ldVxMem x => if s.i.toNat + x.val ≥ 4096 then some .outOfBounds else none
  | .drwVxVyN _ _ n => if n.val ≥ 1 ∧ s.i.toNat + n.val - 1 ≥ 4096 then some .outOfBounds else none
  | .cls | .sys _ | .jp _ | .seVxKk _ _ | .sneVxKk _ _ | .seVxVy _ _ | .sneVxVy _ _ => none
  | .ldVxKk _ _ | .addVxKk _ _ | .ldVxVy _ _ | .orVxVy _ _ | .andVxVy _ _ | .xorVxVy _ _ => none
  | .addVxVy _ _ | .subVxVy _ _ | .shrVx _ _ | .subnVxVy _ _ | .shlVx _ _ | .rndVxKk _ _ => none
  | .ldIAddr _ | .jpV0Addr _ | .addIVx _ | .ldVxDt _ | .ldVxK _ | .ldDtVx _ | .ldStVx _ => none

/-- The registers a step of an instruction may write: its destinations, and `VF` for the six instructions of R11.
`LD Vx,K` writes none, its register is written by `resume` (R161). -/
def destRegs : Instr → List Reg
  | .ldVxKk x _ | .addVxKk x _ | .ldVxVy x _ | .orVxVy x _ | .andVxVy x _ | .xorVxVy x _ => [x]
  | .rndVxKk x _ | .ldVxDt x => [x]
  | .addVxVy x _ | .subVxVy x _ | .shrVx x _ | .subnVxVy x _ | .shlVx x _ => [x, vf]
  | .drwVxVyN _ _ _ => [vf]
  | .ldVxMem x => (List.finRange 16).filter fun r => r ≤ x
  | .cls | .ret | .sys _ | .jp _ | .call _ | .jpV0Addr _ => []
  | .seVxKk _ _ | .sneVxKk _ _ | .seVxVy _ _ | .sneVxVy _ _ | .skpVx _ | .sknpVx _ => []
  | .ldIAddr _ | .addIVx _ | .ldFVx _ | .ldBVx _ | .ldMemVx _ => []
  | .ldVxK _ | .ldDtVx _ | .ldStVx _ => []

/-- The six instructions that can skip (R86). -/
def isSkip : Instr → Bool
  | .seVxKk _ _ | .sneVxKk _ _ | .seVxVy _ _ | .sneVxVy _ _ | .skpVx _ | .sknpVx _ => true
  | .cls | .ret | .sys _ | .jp _ | .call _ | .jpV0Addr _ => false
  | .ldVxKk _ _ | .addVxKk _ _ | .ldVxVy _ _ | .orVxVy _ _ | .andVxVy _ _ | .xorVxVy _ _ => false
  | .addVxVy _ _ | .subVxVy _ _ | .shrVx _ _ | .subnVxVy _ _ | .shlVx _ _ | .rndVxKk _ _ => false
  | .ldIAddr _ | .addIVx _ | .ldFVx _ | .ldBVx _ | .ldMemVx _ | .ldVxMem _ => false
  | .drwVxVyN _ _ _ | .ldVxDt _ | .ldVxK _ | .ldDtVx _ | .ldStVx _ => false

/-- A sprite bit that is 1 of `DRW Vx,Vy,n` lands on pixel `p`: bit `7 - dx` of the byte at `I + dy`, at column
`(V[x] + dx) mod 64` of row `(V[y] + dy) mod 32` (R151, R152). -/
def SpriteCovers (s : State) (x y : Reg) (n : Fin 16) (p : Nat) : Prop :=
  ∃ dy dx, dy < n.val ∧ dx < 8 ∧ (s.byteAt (s.i.toNat + dy)).getLsbD (7 - dx) = true ∧
    p = (((s.reg y).toNat + dy) % 32) * 64 + ((s.reg x).toNat + dx) % 64

/-- The word at `PC`, the byte at the lower address being the high one (R40, R81). -/
def wordAtPc (s : State) : Word :=
  ((s.byteAt s.pc.toNat).zeroExtend 16 <<< 8) ||| (s.byteAt (s.pc.toNat + 1)).zeroExtend 16

/-! ### Runs -/

/-- The sessions of the hardware: `reset` with any `FONT` and any inputs, and whatever operations of the host follow
(R202, R203). -/
inductive Reachable : Session → Prop where
  | reset (s : State) : Reachable { core := s.afterReset, fresh := true }
  | operation (o : Operation) (r r' : Session) (x : OpResult) :
      Reachable r → apply o r = .next (r', x) → Reachable r'

/-- A safe state: no fault has occurred (a faulted state is never a final state of a successful run, U14). -/
def Safe (s : State) : Prop := s.run ≠ .faulted

/-- `PC` addresses a `1nnn` with `nnn = PC`, the end of a program (R90, decision D19). -/
def SelfJump (s : State) : Prop :=
  s.run = .running ∧ ∃ nnn, s.fetch = some (encode (.jp nnn)) ∧ zextAddr nnn = s.pc

/-- A run has ended (R90, decision D19): `WAITING` is not an end. -/
def EndOfRun (s : State) : Prop := s.run = .faulted ∨ SelfJump s

end Sys2Proof.Machine
end

