-- ==== Sys2Proof/Certificates/Slice0/Obligations.lean ====
section
/-! DEFINITION. The statements for the provers. Each docstring names the rule it formalises. A statement about `step`
or `exec` holds for every state, so for every FONT, every `KEYS` and every `rnd`. What a fault leaves (`TookFault`: the
record in `RUN` and `FAULT`, and nothing else changed) is the spec's own decisions D2 and D5 (logs 4 and 5) wherever a
statement speaks of it. What an operation does to the flag `fresh` of a session (whether a load may still be applied)
is the model's own (log 26), in every statement about `apply`. -/

open Sys2Proof Sys2Proof.Machine

/-! ### Encoding -/

/-- R65, R64: the decoder gives back every well-formed instruction with every operand, from its word and from its
bytes, whatever bytes follow. -/
def Obligations.DecodeOfEncodeIsTheInstruction : Prop :=
  ∀ i : Instr, i.wellFormed = true →
    decode (encode i) = .ok i ∧ ∀ rest, decodeBytes (encodeBytes i ++ rest) = .ok (i, rest)

/-- R64, R65: a word decodes only to a well-formed instruction whose word it is, so that each word has one meaning. -/
def Obligations.EncodeOfDecodeIsTheWord : Prop :=
  ∀ (op : Word) (i : Instr), decode op = .ok i → i.wellFormed = true ∧ encode i = op

/-- R64, R66: a word is an instruction, and then of a row that `op & mask = match` selects, or it is rejected by
`InvalidOpcode(op)`, and this exactly when no row selects it. -/
def Obligations.IllegalWordsAreThoseNoRowSelects : Prop :=
  ∀ op : Word,
    ((∃ i, decode op = .ok i ∧ rowOf i ∈ opcodeRows ∧ op &&& (rowOf i).1 = (rowOf i).2) ∨
      decode op = .error (.invalidOpcode op)) ∧
    (decode op = .error (.invalidOpcode op) ↔ ∀ row ∈ opcodeRows, op &&& row.1 ≠ row.2)

/-- R66: the illegal words group by group. -/
def Obligations.IllegalWordsGroupByGroup : Prop :=
  ∀ op : Word, decode op = .error (.invalidOpcode op) ↔
    let top := op.toNat / 0x1000
    let n := op.toNat % 0x10
    let kk := op.toNat % 0x100
    (top = 5 ∧ n ≠ 0) ∨ (top = 8 ∧ (n = 8 ∨ n = 9 ∨ n = 0xA ∨ n = 0xB ∨ n = 0xC ∨ n = 0xD ∨ n = 0xF)) ∨
    (top = 9 ∧ n ≠ 0) ∨ (top = 0xE ∧ kk ≠ 0x9E ∧ kk ≠ 0xA1) ∨
    (top = 0xF ∧ kk ≠ 0x07 ∧ kk ≠ 0x0A ∧ kk ≠ 0x15 ∧ kk ≠ 0x18 ∧ kk ≠ 0x1E ∧ kk ≠ 0x29 ∧ kk ≠ 0x33 ∧
      kk ≠ 0x55 ∧ kk ≠ 0x65)

/-- Words written out from the patterns of R64 decode to the instructions they stand for. -/
def Obligations.WrittenOutWordsDecode : Prop :=
  decode 0x00E0#16 = .ok .cls ∧ decode 0x00EE#16 = .ok .ret ∧ decode 0x0234#16 = .ok (.sys 0x234#12) ∧
  decode 0x1200#16 = .ok (.jp 0x200#12) ∧ decode 0x3A05#16 = .ok (.seVxKk 0xA 0x05#8) ∧
  decode 0x9120#16 = .ok (.sneVxVy 1 2) ∧ decode 0x81F6#16 = .ok (.shrVx 1 15) ∧
  decode 0xB300#16 = .ok (.jpV0Addr 0x300#12) ∧ decode 0xD012#16 = .ok (.drwVxVyN 0 1 2) ∧
  decode 0xE59E#16 = .ok (.skpVx 5) ∧ decode 0xF50A#16 = .ok (.ldVxK 5) ∧ decode 0xFF55#16 = .ok (.ldMemVx 15) ∧
  decode 0x5121#16 = .error (.invalidOpcode 0x5121#16) ∧ decode 0xF000#16 = .error (.invalidOpcode 0xF000#16)

/-! ### Reset and the step -/

/-- R27, R200: what `reset` leaves, in any state, for any FONT. The values of `REDRAW`, `RUN`, `WAITREG`, `FAULT` and
`FAULTOP` are the spec's own choice (its decision D11, log 10). `State.reset` is such a state. -/
def Obligations.ResetLeavesTheStatedValues : Prop :=
  State.reset.afterReset = State.reset ∧
  ∀ (s : State) (fresh : Bool), ∃ t, apply .reset ⟨s, fresh⟩ = .next (⟨t, true⟩, .nothing) ∧
    (∀ r, t.reg r = 0) ∧ t.i = 0 ∧ t.pc = 0x200#16 ∧ t.dt = 0 ∧ t.st = 0 ∧
    (∀ a : Fin 80, t.byteAt a.val = s.font[a]) ∧ (∀ a, 80 ≤ a → t.byteAt a = 0) ∧
    (∀ k : Fin 16, t.stack[k] = 0) ∧ t.sp.val = 0 ∧ (∀ p, t.fb.pixel p = false) ∧
    t.redraw = false ∧ t.run = .running ∧ t.waitReg = 0 ∧ t.fault = .noFault ∧ t.faultOp = 0

/-- R80, R81, R84: when `RUN = RUNNING` and `PC <= 4094`, a step is the meaning of the instruction to which the
big-endian word at `PC` decodes, at that state; nothing is added around it. -/
def Obligations.StepRunsTheDecodedInstruction : Prop :=
  ∀ (s : State) (i : Instr), s.run = .running → s.pc.toNat ≤ 4094 → decode (wordAtPc s) = .ok i →
    step s = exec i s

/-- The placed word is what the next step fetches and runs, in every state (the model's own, log 17). -/
def Obligations.PlacedWordIsRunNext : Prop :=
  ∀ (s : State) (w : Nat) (i : Instr), w < 65536 → decode (BitVec.ofNat 16 w) = .ok i →
    step (s.withFetchWord 16 w) = exec i (s.withFetchWord 16 w)

/-- R81: the fetch succeeds exactly when `PC <= 4094`; else the step raises `OutOfBounds` before any decode (what the
fault leaves: decisions D2 and D5, logs 4 and 5). -/
def Obligations.FetchOutsideMemoryFaults : Prop :=
  ∀ s : State, s.run = .running →
    (s.pc.toNat ≤ 4094 → s.fetch = some (wordAtPc s)) ∧
    (4095 ≤ s.pc.toNat → s.fetch = none ∧ ∃ t, step s = .next t ∧ TookFault .outOfBounds s t)

/-- R171: an illegal word raises `InvalidOpcode`, is recorded in `FAULTOP`, and nothing else changes (the record
in `RUN` and `FAULT`: decision D5, log 4). -/
def Obligations.IllegalWordRaisesInvalidOpcode : Prop :=
  ∀ s : State, s.run = .running → s.pc.toNat ≤ 4094 →
    decode (wordAtPc s) = .error (.invalidOpcode (wordAtPc s)) →
    ∃ t, step s = .next t ∧ t.run = .faulted ∧ t.fault = .invalidOpcode ∧ t.faultOp = wordAtPc s ∧
      OnlyChanges [.run, .fault, .faultOp] s t

/-- R88 (the spec's decision D14, log 12): a step in `WAITING` or `FAULTED` changes nothing, whatever the inputs, and
reports the status again. -/
def Obligations.StepOutsideRunningChangesNothing : Prop :=
  ∀ (s : State) (fresh : Bool) (keys : BitVec 16) (rnd : Byte),
    (s.run = .waiting → step s = .next s ∧
      apply (.step keys rnd) ⟨s, fresh⟩ = .next (⟨s, false⟩, .waitingForKey)) ∧
    (s.run = .faulted → step s = .next s ∧
      apply (.step keys rnd) ⟨s, fresh⟩ = .next (⟨s, false⟩, .fault s.fault))

/-! ### Control transfer -/

/-- R100: nothing but the advance. -/
def Obligations.SysOnlyAdvances : Prop :=
  ∀ (nnn : Addr) (s : State), ∃ t, exec (.sys nnn) s = .next t ∧ t.pc = s.pc + 2 ∧ OnlyChanges [.pc] s t

/-- R102: the address, zero-extended. -/
def Obligations.JumpGoesToItsAddress : Prop :=
  ∀ (nnn : Addr) (s : State), ∃ t, exec (.jp nnn) s = .next t ∧ t.pc.toNat = nnn.toNat ∧ OnlyChanges [.pc] s t

/-- R104: the sum is not reduced to 12 bits. -/
def Obligations.JumpWithOffsetAddsV0 : Prop :=
  ∀ (nnn : Addr) (s : State), ∃ t, exec (.jpV0Addr nnn) s = .next t ∧
    t.pc.toNat = nnn.toNat + (s.reg 0).toNat ∧ OnlyChanges [.pc] s t

/-- R103: below 16 entries the post-fetch `PC` is pushed and the target taken; at 16 the call faults (depth 16 is the
spec's decision D4, log 6; what the fault leaves is D2 and D5, logs 4 and 5). -/
def Obligations.CallPushesThePostFetchPc : Prop :=
  ∀ (nnn : Addr) (s : State),
    (s.sp.val < 16 → ∃ t, exec (.call nnn) s = .next t ∧ t.pc.toNat = nnn.toNat ∧ t.sp.val = s.sp.val + 1 ∧
      (∀ k : Fin 16, t.stack[k] = if k.val = s.sp.val then s.pc + 2 else s.stack[k]) ∧
      OnlyChanges [.pc, .stack, .sp] s t) ∧
    (s.sp.val = 16 → ∃ t, exec (.call nnn) s = .next t ∧ TookFault .stackOverflow s t)

/-- R101, R173: the top entry is popped into `PC`; on an empty stack the return faults (the record in `RUN` and `FAULT`:
decision D5, log 4). -/
def Obligations.ReturnPopsTheTopEntry : Prop :=
  ∀ s : State,
    (∀ k : Fin 16, s.sp.val = k.val + 1 → ∃ t, exec .ret s = .next t ∧ t.pc = s.stack[k] ∧ t.sp.val = k.val ∧
      OnlyChanges [.pc, .sp] s t) ∧
    (s.sp.val = 0 → ∃ t, exec .ret s = .next t ∧ TookFault .stackUnderflow s t)

/-- R101, R103: a return in a state with the stack a call left goes to the instruction after the call. -/
def Obligations.CallThenReturnResumesAfterTheCall : Prop :=
  ∀ (nnn : Addr) (s t u : State), s.sp.val < 16 → exec (.call nnn) s = .next t →
    u.stack = t.stack → u.sp = t.sp → ∃ w, exec .ret u = .next w ∧ w.pc = s.pc + 2 ∧ w.sp = s.sp

/-! ### Skips -/

/-- R110, R111: nothing but `PC` is written. -/
def Obligations.SkipOnImmediate : Prop :=
  ∀ (x : Reg) (kk : Byte) (s : State),
    (∃ t, exec (.seVxKk x kk) s = .next t ∧ t.pc = (if s.reg x = kk then s.pc + 4 else s.pc + 2) ∧
      OnlyChanges [.pc] s t) ∧
    (∃ t, exec (.sneVxKk x kk) s = .next t ∧ t.pc = (if s.reg x = kk then s.pc + 2 else s.pc + 4) ∧
      OnlyChanges [.pc] s t)

/-- R112, R113: nothing but `PC` is written. -/
def Obligations.SkipOnRegisters : Prop :=
  ∀ (x y : Reg) (s : State),
    (∃ t, exec (.seVxVy x y) s = .next t ∧ t.pc = (if s.reg x = s.reg y then s.pc + 4 else s.pc + 2) ∧
      OnlyChanges [.pc] s t) ∧
    (∃ t, exec (.sneVxVy x y) s = .next t ∧ t.pc = (if s.reg x = s.reg y then s.pc + 2 else s.pc + 4) ∧
      OnlyChanges [.pc] s t)

/-- R114, R115: the key named by `V[x]`, sampled once; an index above 15 faults (the spec's decision D7, log 7;
what the fault leaves is D2 and D5). The
sample taken is the model's own bookkeeping of the input (log 1). -/
def Obligations.SkipOnKey : Prop :=
  ∀ (x : Reg) (s : State),
    ((s.reg x).toNat ≤ 15 →
      (∃ t, exec (.skpVx x) s = .next t ∧
        t.pc = (if s.keys.getLsbD (s.reg x).toNat = true then s.pc + 4 else s.pc + 2) ∧
        t.keyIn = s.keyIn.advance ∧ OnlyChanges [.pc, .keyIn] s t) ∧
      (∃ t, exec (.sknpVx x) s = .next t ∧
        t.pc = (if s.keys.getLsbD (s.reg x).toNat = true then s.pc + 2 else s.pc + 4) ∧
        t.keyIn = s.keyIn.advance ∧ OnlyChanges [.pc, .keyIn] s t)) ∧
    (15 < (s.reg x).toNat →
      (∃ t, exec (.skpVx x) s = .next t ∧ TookFault .outOfBounds s t) ∧
      (∃ t, exec (.sknpVx x) s = .next t ∧ TookFault .outOfBounds s t))

/-- R116, R86: the six skip instructions advance `PC` by exactly 4 or exactly 2, and write nothing else of the spec's
state; the one exception is `SKP` or `SKNP` with a key index above 15, which faults (decision D7, log 7; what the fault
leaves is D2 and D5, logs 5 and 4). -/
def Obligations.SkipsAdvanceByFourOrTwo : Prop :=
  ∀ (i : Instr) (s t : State), isSkip i = true → s.pc.toNat ≤ 4094 → exec i s = .next t →
    ((t.pc.toNat = s.pc.toNat + 4 ∨ t.pc.toNat = s.pc.toNat + 2) ∧ OnlyChanges [.pc, .keyIn] s t) ∨
    (∃ x, (i = .skpVx x ∨ i = .sknpVx x) ∧ 15 < (s.reg x).toNat ∧ TookFault .outOfBounds s t)

/-! ### Register and ALU instructions -/

/-- R121, R122: the immediate forms; neither writes `VF` unless it is the destination. -/
def Obligations.ImmediateLoadAndAdd : Prop :=
  ∀ (x : Reg) (kk : Byte) (s : State),
    (∃ t, exec (.ldVxKk x kk) s = .next t ∧ t.reg x = kk ∧ t.pc = s.pc + 2 ∧
      RegsKeptBut [x] s t ∧ OnlyChanges [.v, .pc] s t) ∧
    (∃ t, exec (.addVxKk x kk) s = .next t ∧ (t.reg x).toNat = ((s.reg x).toNat + kk.toNat) % 256 ∧
      t.pc = s.pc + 2 ∧ RegsKeptBut [x] s t ∧ OnlyChanges [.v, .pc] s t)

/-- R123, R124, R125, R126: bit by bit; none of them writes `VF` unless it is the destination. -/
def Obligations.RegisterMovesAndLogic : Prop :=
  ∀ (x y : Reg) (s : State),
    (∃ t, exec (.ldVxVy x y) s = .next t ∧ t.reg x = s.reg y ∧ t.pc = s.pc + 2 ∧
      RegsKeptBut [x] s t ∧ OnlyChanges [.v, .pc] s t) ∧
    (∃ t, exec (.orVxVy x y) s = .next t ∧
      (∀ b, (t.reg x).getLsbD b = ((s.reg x).getLsbD b || (s.reg y).getLsbD b)) ∧ t.pc = s.pc + 2 ∧
      RegsKeptBut [x] s t ∧ OnlyChanges [.v, .pc] s t) ∧
    (∃ t, exec (.andVxVy x y) s = .next t ∧
      (∀ b, (t.reg x).getLsbD b = ((s.reg x).getLsbD b && (s.reg y).getLsbD b)) ∧ t.pc = s.pc + 2 ∧
      RegsKeptBut [x] s t ∧ OnlyChanges [.v, .pc] s t) ∧
    (∃ t, exec (.xorVxVy x y) s = .next t ∧
      (∀ b, (t.reg x).getLsbD b = ((s.reg x).getLsbD b ^^ (s.reg y).getLsbD b)) ∧ t.pc = s.pc + 2 ∧
      RegsKeptBut [x] s t ∧ OnlyChanges [.v, .pc] s t)

/-- R127: the carry in `VF`, which wins when `x = 15`. -/
def Obligations.AddSetsCarry : Prop :=
  ∀ (x y : Reg) (s : State), ∃ t, exec (.addVxVy x y) s = .next t ∧
    t.reg 15 = (if (s.reg x).toNat + (s.reg y).toNat > 255 then 1 else 0) ∧
    (x ≠ 15 → (t.reg x).toNat = ((s.reg x).toNat + (s.reg y).toNat) % 256) ∧
    t.pc = s.pc + 2 ∧ RegsKeptBut [x, 15] s t ∧ OnlyChanges [.v, .pc] s t

/-- R128, R130: the difference modulo 256 and NOT borrow in `VF`, which wins when `x = 15`. -/
def Obligations.SubtractSetsNotBorrow : Prop :=
  ∀ (x y : Reg) (s : State),
    (∃ t, exec (.subVxVy x y) s = .next t ∧
      t.reg 15 = (if (s.reg x).toNat ≥ (s.reg y).toNat then 1 else 0) ∧
      (x ≠ 15 → (t.reg x).toNat = ((s.reg x).toNat + 256 - (s.reg y).toNat) % 256) ∧
      t.pc = s.pc + 2 ∧ RegsKeptBut [x, 15] s t ∧ OnlyChanges [.v, .pc] s t) ∧
    (∃ t, exec (.subnVxVy x y) s = .next t ∧
      t.reg 15 = (if (s.reg y).toNat ≥ (s.reg x).toNat then 1 else 0) ∧
      (x ≠ 15 → (t.reg x).toNat = ((s.reg y).toNat + 256 - (s.reg x).toNat) % 256) ∧
      t.pc = s.pc + 2 ∧ RegsKeptBut [x, 15] s t ∧ OnlyChanges [.v, .pc] s t)

/-- R129, R131: shift by one, the bit shifted out in `VF`, `y` ignored. -/
def Obligations.ShiftsSetTheBitShiftedOut : Prop :=
  ∀ (x y : Reg) (s : State),
    (∃ t, exec (.shrVx x y) s = .next t ∧ (t.reg 15).toNat = (s.reg x).toNat % 2 ∧
      (x ≠ 15 → (t.reg x).toNat = (s.reg x).toNat / 2) ∧
      t.pc = s.pc + 2 ∧ RegsKeptBut [x, 15] s t ∧ OnlyChanges [.v, .pc] s t ∧
      ∀ y', exec (.shrVx x y') s = .next t) ∧
    (∃ t, exec (.shlVx x y) s = .next t ∧ (t.reg 15).toNat = (s.reg x).toNat / 128 ∧
      (x ≠ 15 → (t.reg x).toNat = (s.reg x).toNat * 2 % 256) ∧
      t.pc = s.pc + 2 ∧ RegsKeptBut [x, 15] s t ∧ OnlyChanges [.v, .pc] s t ∧
      ∀ y', exec (.shlVx x y') s = .next t)

/-- R132: for every value of the draw; the draw taken is the model's own bookkeeping of the input (log 2). -/
def Obligations.RandomIsMaskedDraw : Prop :=
  ∀ (x : Reg) (kk : Byte) (s : State), ∃ t, exec (.rndVxKk x kk) s = .next t ∧
    (∀ b, (t.reg x).getLsbD b = (s.rnd.getLsbD b && kk.getLsbD b)) ∧ t.pc = s.pc + 2 ∧
    t.rndIn = s.rndIn.advance ∧ RegsKeptBut [x] s t ∧ OnlyChanges [.v, .pc, .rndIn] s t

/-- R22, R23, R89: the arguments of the operation `step(KEYS, rnd)` are what `SKP`, `SKNP` and `RND` read, and the
inputs of later steps are not touched. -/
def Obligations.StepOperationReadsItsArguments : Prop :=
  ∀ (s : State) (fresh : Bool) (keys : BitVec 16) (rnd : Byte) (x : Reg), s.run = .running → s.pc.toNat ≤ 4094 →
    (decode (wordAtPc s) = .ok (.skpVx x) → (s.reg x).toNat ≤ 15 →
      ∃ t, apply (.step keys rnd) ⟨s, fresh⟩ = .next (⟨t, false⟩, .ok) ∧ OnlyChanges [.pc] s t ∧
        t.pc = if keys.getLsbD (s.reg x).toNat = true then s.pc + 4 else s.pc + 2) ∧
    (decode (wordAtPc s) = .ok (.sknpVx x) → (s.reg x).toNat ≤ 15 →
      ∃ t, apply (.step keys rnd) ⟨s, fresh⟩ = .next (⟨t, false⟩, .ok) ∧ OnlyChanges [.pc] s t ∧
        t.pc = if keys.getLsbD (s.reg x).toNat = true then s.pc + 2 else s.pc + 4) ∧
    (∀ kk, decode (wordAtPc s) = .ok (.rndVxKk x kk) →
      ∃ t, apply (.step keys rnd) ⟨s, fresh⟩ = .next (⟨t, false⟩, .ok) ∧ OnlyChanges [.v, .pc] s t ∧
        t.pc = s.pc + 2 ∧ t.reg x = rnd &&& kk ∧ RegsKeptBut [x] s t)

/-! ### Index register and memory -/

/-- R140: the address, zero-extended. -/
def Obligations.LoadIndex : Prop :=
  ∀ (nnn : Addr) (s : State), ∃ t, exec (.ldIAddr nnn) s = .next t ∧ t.i.toNat = nnn.toNat ∧
    t.pc = s.pc + 2 ∧ OnlyChanges [.i, .pc] s t

/-- R141: no flag; the wrap above 0xFFFF is the spec's decision D10 (log 9). -/
def Obligations.AddToIndexWrapsAtSixteenBits : Prop :=
  ∀ (x : Reg) (s : State), ∃ t, exec (.addIVx x) s = .next t ∧
    t.i.toNat = (s.i.toNat + (s.reg x).toNat) % 65536 ∧ t.pc = s.pc + 2 ∧ OnlyChanges [.i, .pc] s t

/-- R142, R175: five bytes a glyph; a digit above 15 faults (what the fault leaves: decisions D2 and D5, logs 4
and 5). -/
def Obligations.LoadGlyphAddress : Prop :=
  ∀ (x : Reg) (s : State),
    ((s.reg x).toNat ≤ 15 → ∃ t, exec (.ldFVx x) s = .next t ∧ t.i.toNat = (s.reg x).toNat * 5 ∧
      t.pc = s.pc + 2 ∧ OnlyChanges [.i, .pc] s t) ∧
    (15 < (s.reg x).toNat → ∃ t, exec (.ldFVx x) s = .next t ∧ TookFault .invalidDigit s t)

/-- R143: three decimal digits from `I` on, or `OutOfBounds` with nothing written when `I >= 4094` (what the
fault leaves: decisions D2 and D5, logs 4 and 5). -/
def Obligations.StoreDecimalDigits : Prop :=
  ∀ (x : Reg) (s : State),
    (s.i.toNat ≤ 4093 → ∃ t, exec (.ldBVx x) s = .next t ∧
      (t.byteAt s.i.toNat).toNat = (s.reg x).toNat / 100 ∧
      (t.byteAt (s.i.toNat + 1)).toNat = (s.reg x).toNat / 10 % 10 ∧
      (t.byteAt (s.i.toNat + 2)).toNat = (s.reg x).toNat % 10 ∧
      BytesKeptOutside s.i.toNat 3 s t ∧ t.pc = s.pc + 2 ∧ OnlyChanges [.mem, .pc] s t) ∧
    (4094 ≤ s.i.toNat → ∃ t, exec (.ldBVx x) s = .next t ∧ TookFault .outOfBounds s t)

/-- R144: `V[0..x]` at `I` to `I + x`, or `OutOfBounds` with nothing written when `I + x >= 4096` (what
the fault leaves: decisions D2 and D5, logs 4 and 5). -/
def Obligations.StoreRegisterRange : Prop :=
  ∀ (x : Reg) (s : State),
    (s.i.toNat + x.val < 4096 → ∃ t, exec (.ldMemVx x) s = .next t ∧
      (∀ k : Reg, k.val ≤ x.val → t.byteAt (s.i.toNat + k.val) = s.reg k) ∧
      BytesKeptOutside s.i.toNat (x.val + 1) s t ∧ t.pc = s.pc + 2 ∧ OnlyChanges [.mem, .pc] s t) ∧
    (4096 ≤ s.i.toNat + x.val → ∃ t, exec (.ldMemVx x) s = .next t ∧ TookFault .outOfBounds s t)

/-- R145: the bytes at `I` to `I + x` in `V[0..x]`, or `OutOfBounds` with no register changed (what the fault leaves:
decisions D2 and D5, logs 4 and 5). -/
def Obligations.LoadRegisterRange : Prop :=
  ∀ (x : Reg) (s : State),
    (s.i.toNat + x.val < 4096 → ∃ t, exec (.ldVxMem x) s = .next t ∧
      (∀ k : Reg, t.reg k = if k.val ≤ x.val then s.byteAt (s.i.toNat + k.val) else s.reg k) ∧
      t.pc = s.pc + 2 ∧ OnlyChanges [.v, .pc] s t) ∧
    (4096 ≤ s.i.toNat + x.val → ∃ t, exec (.ldVxMem x) s = .next t ∧ TookFault .outOfBounds s t)

/-- R146: store then load with the same `x` and `I` brings every register back, and `I` is unchanged by both. -/
def Obligations.StoreThenLoadBringsRegistersBack : Prop :=
  ∀ (x : Reg) (s t : State), s.i.toNat + x.val < 4096 → exec (.ldMemVx x) s = .next t →
    ∃ u, exec (.ldVxMem x) t = .next u ∧ (∀ r, u.reg r = s.reg r) ∧ t.i = s.i ∧ u.i = s.i ∧
      ∀ k : Reg, k.val ≤ x.val → u.byteAt (s.i.toNat + k.val) = s.reg k

/-- R49: what a store writes over the next instruction is what the very next step fetches. -/
def Obligations.StoreIsSeenByTheNextFetch : Prop :=
  ∀ (x a b : Reg) (s t : State), s.run = .running → s.pc.toNat + 3 < 4096 → s.i.toNat + x.val < 4096 →
    exec (.ldMemVx x) s = .next t → b.val = a.val + 1 → b.val ≤ x.val → s.pc.toNat + 2 = s.i.toNat + a.val →
    t.fetch = some (wordOfBytes (s.reg a) (s.reg b))

/-! ### Display -/

/-- R150: all 2048 pixels off, a redraw pending. -/
def Obligations.ClsBlanksTheScreen : Prop :=
  ∀ s : State, ∃ t, exec .cls s = .next t ∧ (∀ p, t.fb.pixel p = false) ∧ t.redraw = true ∧ t.pc = s.pc + 2 ∧
    OnlyChanges [.fb, .redraw, .pc] s t

/-- R151: exactly the covered pixels are flipped, `VF` is the collision, a redraw is marked; a row outside memory
faults and nothing changes (decisions D2 and D5, logs 4 and 5). -/
def Obligations.DrawFlipsTheCoveredPixels : Prop :=
  ∀ (x y : Reg) (n : Fin 16) (s : State),
    ((n.val = 0 ∨ s.i.toNat + n.val - 1 < 4096) → ∃ t, exec (.drwVxVyN x y n) s = .next t ∧
      (∀ p, p < 2048 → (SpriteCovers s x y n p → t.fb.pixel p = !s.fb.pixel p) ∧
        (¬ SpriteCovers s x y n p → t.fb.pixel p = s.fb.pixel p)) ∧
      ((∃ p, SpriteCovers s x y n p ∧ s.fb.pixel p = true) → t.reg 15 = 1) ∧
      ((¬ ∃ p, SpriteCovers s x y n p ∧ s.fb.pixel p = true) → t.reg 15 = 0) ∧
      t.redraw = true ∧ t.pc = s.pc + 2 ∧ RegsKeptBut [15] s t ∧ OnlyChanges [.v, .fb, .redraw, .pc] s t) ∧
    (n.val ≠ 0 → 4096 ≤ s.i.toNat + n.val - 1 → ∃ t, exec (.drwVxVyN x y n) s = .next t ∧
      TookFault .outOfBounds s t)

/-- R153: the identical sprite at the identical location a second time brings every pixel back, and the second `VF` is
1 exactly when a covered pixel was 0 before the first. -/
def Obligations.DrawingTwiceRestoresTheScreen : Prop :=
  ∀ (x y : Reg) (n : Fin 16) (s t t' : State), (n.val = 0 ∨ s.i.toNat + n.val - 1 < 4096) →
    exec (.drwVxVyN x y n) s = .next t →
    t'.fb = t.fb → t'.i = s.i → t'.reg x = s.reg x → t'.reg y = s.reg y → (∀ a, t'.byteAt a = s.byteAt a) →
    ∃ u, exec (.drwVxVyN x y n) t' = .next u ∧ (∀ p, p < 2048 → u.fb.pixel p = s.fb.pixel p) ∧
      ((∃ p, SpriteCovers s x y n p ∧ s.fb.pixel p = false) → u.reg 15 = 1) ∧
      ((¬ ∃ p, SpriteCovers s x y n p ∧ s.fb.pixel p = false) → u.reg 15 = 0)

/-! ### Timers and keys -/

/-- R160, R163, R164: each moves one byte and writes no flag. -/
def Obligations.TimerLoads : Prop :=
  ∀ (x : Reg) (s : State),
    (∃ t, exec (.ldVxDt x) s = .next t ∧ t.reg x = s.dt ∧ t.pc = s.pc + 2 ∧ RegsKeptBut [x] s t ∧
      OnlyChanges [.v, .pc] s t) ∧
    (∃ t, exec (.ldDtVx x) s = .next t ∧ t.dt = s.reg x ∧ t.pc = s.pc + 2 ∧ OnlyChanges [.dt, .pc] s t) ∧
    (∃ t, exec (.ldStVx x) s = .next t ∧ t.st = s.reg x ∧ t.pc = s.pc + 2 ∧ OnlyChanges [.st, .pc] s t)

/-- R161 (the protocol is the spec's decision D8, log 8): the wait is entered, no register is written. -/
def Obligations.KeyLoadEntersTheWait : Prop :=
  ∀ (x : Reg) (s : State), ∃ t, exec (.ldVxK x) s = .next t ∧ t.run = .waiting ∧ t.waitReg = x ∧
    t.pc = s.pc + 2 ∧ t.stepResult = .waitingForKey ∧ OnlyChanges [.waitReg, .run, .pc] s t

/-- R162 (decisions D8 and D14, logs 8 and 12): `resume(k)` ends a wait with `V[WAITREG] = k`, and changes nothing in
any other run state. -/
def Obligations.ResumeDeliversTheKey : Prop :=
  ∀ (k : Key) (s : State) (fresh : Bool),
    (s.run = .waiting → ∃ t, apply (.resume k) ⟨s, fresh⟩ = .next (⟨t, fresh⟩, .nothing) ∧
      (t.reg s.waitReg).toNat = k.val ∧
      t.run = .running ∧ RegsKeptBut [s.waitReg] s t ∧ OnlyChanges [.v, .run] s t) ∧
    (s.run ≠ .waiting → apply (.resume k) ⟨s, fresh⟩ = .next (⟨s, fresh⟩, .nothing))

/-- R184, R185 (in every run state: decision D14, log 12). -/
def Obligations.TickAndClearRedraw : Prop :=
  ∀ (s : State) (fresh : Bool),
    (∃ t, apply .tickTimers ⟨s, fresh⟩ = .next (⟨t, fresh⟩, .nothing) ∧ t.dt.toNat = s.dt.toNat - 1 ∧
      t.st.toNat = s.st.toNat - 1 ∧ OnlyChanges [.dt, .st] s t) ∧
    (∃ t, apply .clearRedraw ⟨s, fresh⟩ = .next (⟨t, fresh⟩, .nothing) ∧ t.redraw = false ∧
      OnlyChanges [.redraw] s t)

/-! ### Loading a program -/

/-- R201: after `reset` an image of at most 3584 bytes is copied to 0x200 and on, a longer one is turned away with
nothing written; when the state is not the one `reset` left, or a step or another load came first, the operation is
refused (decision D17, log 14). -/
def Obligations.LoadProgramCopiesTheImage : Prop :=
  ∀ (bytes : List Byte) (s : State),
    (bytes.length ≤ 3584 → ∃ t, apply (.loadProgram bytes) ⟨s.afterReset, true⟩ = .next (⟨t, false⟩, .ok) ∧
      (∀ (k : Nat) (h : k < bytes.length), t.byteAt (0x200 + k) = bytes[k]) ∧
      BytesKeptOutside 0x200 bytes.length s.afterReset t ∧ OnlyChanges [.mem] s.afterReset t) ∧
    (3584 < bytes.length →
      apply (.loadProgram bytes) ⟨s.afterReset, true⟩ = .next (⟨s.afterReset, true⟩, .romTooLarge)) ∧
    (∀ r : Session, r.fresh = false ∨ r.core ≠ r.core.afterReset →
      apply (.loadProgram bytes) r = .refused .loadOutsidePrecondition)

/-- R201 (decision D17, log 14): once a step has been applied or a load has been answered `Ok`, a load is refused, and
stays refused whatever follows until the next `reset`, also where the state has come back to what `reset` leaves. -/
def Obligations.LoadIsRefusedUntilTheNextReset : Prop :=
  ∀ (o : Operation) (r r' : Session) (x : OpResult), apply o r = .next (r', x) →
    ((∃ keys rnd, o = .step keys rnd) ∨ (∃ bytes, o = .loadProgram bytes ∧ x = .ok) ∨
      (r.fresh = false ∧ o ≠ .reset)) →
    r'.fresh = false ∧ ∀ bytes, apply (.loadProgram bytes) r' = .refused .loadOutsidePrecondition

/-! ### Faults -/

/-- R170, R172, R178 (with the spec's decisions D2, D4, D5 and D7; logs 4 to 7): an instruction takes a fault exactly
under the condition the tables list for it, with the code listed, and then nothing else changes. -/
def Obligations.InstructionsFaultExactlyAsListed : Prop :=
  ∀ (i : Instr) (s t : State), exec i s = .next t →
    (∀ f, faultOf s i = some f → TookFault f s t) ∧
    (faultOf s i = none → s.run = .running → t.run ≠ .faulted ∧ t.fault = s.fault ∧ t.faultOp = s.faultOp)

/-- R85, R176 (for every fault: the spec's decision D2, log 5): a step that ends in `FAULTED` has written the fault
record and nothing else. -/
def Obligations.FaultingStepWritesOnlyItsRecord : Prop :=
  ∀ s t : State, s.run = .running → step s = .next t → t.run = .faulted →
    t.fault ≠ .noFault ∧ OnlyChanges [.run, .fault, .faultOp] s t ∧
    (t.fault ≠ .invalidOpcode → t.faultOp = s.faultOp)

/-- R177 (decision D5, log 4; what the operations do in `FAULTED` is D14, log 12): no operation of the host but `reset`
leaves `FAULTED`, clears the fault record or moves `PC`. -/
def Obligations.OnlyResetLeavesFaulted : Prop :=
  ∀ (o : Operation) (r r' : Session) (x : OpResult), r.core.run = .faulted → o ≠ .reset →
    apply o r = .next (r', x) →
    r'.core.run = .faulted ∧ r'.core.fault = r.core.fault ∧ r'.core.faultOp = r.core.faultOp ∧
      r'.core.pc = r.core.pc

/-! ### Invariants -/

/-- The reset state satisfies the invariant. Of its clauses, that `FAULT` is `None` while `RUN` is `RUNNING`, and that
`FAULTOP` is 0, rest on the spec's own decision D11 (log 10); the canonical form of the memory is the model's own
(log 18), and so is the freshness of a session (log 26). R13, R17 and R200 give the rest. -/
def Obligations.ResetSatisfiesTheInvariant : Prop :=
  State.reset.Inv ∧ Session.reset.Inv ∧ ∀ s : State, Session.Inv ⟨s.afterReset, true⟩

/-- Every step keeps the invariant: the bound on `PC` (R13, R104) and on the stack entries (R17, R103), and the fault
record, which is the spec's own decision D5 (R21, R176; log 4). The canonical form of the memory is the model's own
(log 18). -/
def Obligations.EveryStepKeepsTheInvariant : Prop := ∀ s t : State, s.Inv → step s = .next t → t.Inv

/-- Every operation of the host keeps the invariant: the bound on `PC` (R13, R104) and on the stack entries (R17, R103);
the fault record, which is the spec's own decision D5 (log 4), with the values of `RUN`, `FAULT` and `FAULTOP` after
`reset`, its decision D11 (log 10), and what the operations do in each run state, its decision D14 (log 12). The
canonical form of the memory (log 18) and the freshness of a session (log 26) are the model's own. -/
def Obligations.EveryOperationKeepsTheInvariant : Prop :=
  ∀ (o : Operation) (r r' : Session) (x : OpResult), r.Inv → apply o r = .next (r', x) → r'.Inv

/-- R80: a step always answers a next state, never a stop (a fault is a next state: R176, log 4; in `WAITING` and
`FAULTED` the step changes nothing: decision D14, log 12). -/
def Obligations.EveryStepAnswersANextState : Prop := ∀ s : State, ∃ t, step s = .next t

/-! ### Whole-machine rules -/

/-- R10, R11: a register that an instruction changes is its destination, or `VF` for the six flag-writing
instructions. That `LD Vx,K` writes no register at its step is the spec's own decision D8 (R161, log 8). -/
def Obligations.RegistersChangeOnlyAsDestinations : Prop :=
  ∀ (i : Instr) (s t : State) (r : Reg), exec i s = .next t → t.reg r ≠ s.reg r → r ∈ destRegs i

/-- R18, R19, R154: only `CLS` and `DRW` change a pixel or the redraw flag, and no instruction clears that flag. -/
def Obligations.OnlyClsAndDrwTouchTheDisplay : Prop :=
  ∀ (i : Instr) (s t : State), exec i s = .next t →
    (t.fb ≠ s.fb ∨ t.redraw ≠ s.redraw → i = .cls ∨ ∃ x y n, i = .drwVxVyN x y n) ∧
    (s.redraw = true → t.redraw = true)

/-- R43, R147: only `LD B,Vx` and `LD [I],Vx` change a byte of memory, and only the three `I` loads change `I`. -/
def Obligations.OnlyTheListedInstructionsTouchMemoryAndIndex : Prop :=
  ∀ (i : Instr) (s t : State), exec i s = .next t →
    ((∃ a, t.byteAt a ≠ s.byteAt a) → ∃ x, i = .ldBVx x ∨ i = .ldMemVx x) ∧
    (t.i ≠ s.i → (∃ nnn, i = .ldIAddr nnn) ∨ ∃ x, i = .addIVx x ∨ i = .ldFVx x)

/-- R17, R165, R20: only `CALL` writes a stack slot, only `CALL` and `RET` change the depth, only the two timer loads
change a timer. That there is a `WAITREG` and only `LD Vx,K` changes it is the spec's own decision D8 (R20, log 8); that
nothing changes the model's field `font` is its own (log 3). -/
def Obligations.OnlyTheListedInstructionsTouchStackAndTimers : Prop :=
  ∀ (i : Instr) (s t : State), exec i s = .next t →
    (t.stack ≠ s.stack → ∃ nnn, i = .call nnn) ∧
    (t.sp ≠ s.sp → i = .ret ∨ ∃ nnn, i = .call nnn) ∧
    (t.dt ≠ s.dt → ∃ x, i = .ldDtVx x) ∧ (t.st ≠ s.st → ∃ x, i = .ldStVx x) ∧
    (t.waitReg ≠ s.waitReg → ∃ x, i = .ldVxK x) ∧ t.font = s.font

/-- R89: only `SKP` and `SKNP` depend on `KEYS`, only `RND` depends on `rnd`: every other instruction leaves the same
state whatever the inputs. -/
def Obligations.InputsMatterOnlyToTheirReaders : Prop :=
  ∀ (i : Instr) (s : State), ∃ t, exec i s = .next t ∧
    ((∀ x, i ≠ .skpVx x ∧ i ≠ .sknpVx x) → ∀ c, exec i { s with keyIn := c } = .next { t with keyIn := c }) ∧
    ((∀ x kk, i ≠ .rndVxKk x kk) → ∀ c, exec i { s with rndIn := c } = .next { t with rndIn := c })

/-- R90 (the spec's suggestion, decision D19, log 24): a self-jump yields the state again, for every input. -/
def Obligations.SelfJumpYieldsTheSameState : Prop :=
  ∀ s : State, SelfJump s →
    step s = .next s ∧ ∀ fresh keys rnd, apply (.step keys rnd) ⟨s, fresh⟩ = .next (⟨s, false⟩, .ok)
end

