-- ==== Sys2Proof/Laws/Decode.lean ====
section
/-! SUPPORT. The fields of an opcode as arithmetic on its number, the words the encoder builds, and the masks of R64. -/

namespace Sys2Proof

/-! ### The fields of an opcode (R61) -/

theorem opTop_eq (op : Word) : opTop op = op.toNat / 4096 := by
  have := op.isLt
  simp [opTop, Nat.shiftRight_eq_div_pow]
  omega

theorem opX_val (op : Word) : (opX op).val = op.toNat / 256 % 16 := by
  simp [opX, Nat.shiftRight_eq_div_pow]

theorem opY_val (op : Word) : (opY op).val = op.toNat / 16 % 16 := by
  simp [opY, Nat.shiftRight_eq_div_pow]

theorem opN_val (op : Word) : (opN op).val = op.toNat % 16 := by simp [opN]

theorem opKk_toNat (op : Word) : (opKk op).toNat = op.toNat % 256 := by simp [opKk]

theorem opNnn_toNat (op : Word) : (opNnn op).toNat = op.toNat % 4096 := by simp [opNnn]

/-! ### The words of the encoder -/

theorem encNnn_toNat (top : Nat) (h : top < 16) (nnn : Addr) :
    (encNnn top nnn).toNat = top * 4096 + nnn.toNat := by
  have := nnn.isLt
  simp only [encNnn, BitVec.toNat_ofNat]
  omega

theorem encXkk_toNat (top : Nat) (h : top < 16) (x : Reg) (kk : Byte) :
    (encXkk top x kk).toNat = top * 4096 + x.val * 256 + kk.toNat := by
  have := kk.isLt
  simp only [encXkk, BitVec.toNat_ofNat]
  omega

theorem encXy_toNat (top : Nat) (h : top < 16) (x y : Reg) (low : Nat) (hl : low < 16) :
    (encXy top x y low).toNat = top * 4096 + x.val * 256 + y.val * 16 + low := by
  simp only [encXy, BitVec.toNat_ofNat]
  omega

theorem encX_toNat (top : Nat) (h : top < 16) (x : Reg) (low : Nat) (hl : low < 256) :
    (encX top x low).toNat = top * 4096 + x.val * 256 + low := by
  simp only [encX, BitVec.toNat_ofNat]
  omega

/-! ### The masks -/

theorem toNat_and_F000 (op : Word) : (op &&& 0xF000#16).toNat = op.toNat / 4096 * 4096 := by
  have h : op &&& 0xF000#16 = (op.extractLsb' 12 4).zeroExtend 16 <<< 12 := by
    ext i hi
    simp only [BitVec.getElem_and, BitVec.getElem_shiftLeft, BitVec.getElem_setWidth]
    interval_cases i <;> simp [BitVec.getLsbD_eq_getElem]
  rw [h]
  have := op.isLt
  simp [Nat.shiftRight_eq_div_pow, Nat.shiftLeft_eq]
  omega

theorem toNat_and_000F (op : Word) : (op &&& 0x000F#16).toNat = op.toNat % 16 := by
  simpa using Nat.and_two_pow_sub_one_eq_mod op.toNat 4

theorem toNat_and_00FF (op : Word) : (op &&& 0x00FF#16).toNat = op.toNat % 256 := by
  simpa using Nat.and_two_pow_sub_one_eq_mod op.toNat 8

theorem and_disjoint_or (op a b : Word) (h : a &&& b = 0#16) : op &&& (a ||| b) = (op &&& a) + (op &&& b) := by
  rw [BitVec.add_eq_or_of_and_eq_zero]
  · ext i hi
    simp only [BitVec.getElem_and, BitVec.getElem_or]
    cases op[i] <;> simp
  · have : (op &&& a) &&& (op &&& b) = op &&& (a &&& b) := by
      ext i hi
      simp only [BitVec.getElem_and]
      cases op[i] <;> simp
    rw [this, h]; simp

theorem toNat_and_F00F (op : Word) : (op &&& 0xF00F#16).toNat = op.toNat / 4096 * 4096 + op.toNat % 16 := by
  have := op.isLt
  rw [show (0xF00F#16) = 0xF000#16 ||| 0x000F#16 by decide, and_disjoint_or _ _ _ (by decide), BitVec.toNat_add,
    toNat_and_F000, toNat_and_000F]
  omega

theorem toNat_and_F0FF (op : Word) : (op &&& 0xF0FF#16).toNat = op.toNat / 4096 * 4096 + op.toNat % 256 := by
  have := op.isLt
  rw [show (0xF0FF#16) = 0xF000#16 ||| 0x00FF#16 by decide, and_disjoint_or _ _ _ (by decide), BitVec.toNat_add,
    toNat_and_F000, toNat_and_00FF]
  omega

/-! ### Bytes -/

/-- The two bytes of a word, put together again, are the word (R40). -/
theorem wordOfBytes_bytesOfWord (op : Word) : wordOfBytes (op.extractLsb' 8 8) (op.extractLsb' 0 8) = op := by
  unfold wordOfBytes
  ext i hi
  simp only [BitVec.getElem_or, BitVec.getElem_shiftLeft, BitVec.getElem_setWidth]
  interval_cases i <;> simp [BitVec.getLsbD_eq_getElem]

end Sys2Proof
end

