-- ==== Sys2Proof/Laws/HostOps.lean ====
section
/-! SUPPORT. What the host's operations answer, one lemma each, and when a load is accepted. -/

namespace Sys2Proof.Machine

@[simp] theorem apply_reset (r : Session) :
    apply .reset r = .next ({ core := r.core.afterReset, fresh := true }, .nothing) := rfl

@[simp] theorem apply_loadProgram (bytes : List Byte) (r : Session) :
    apply (.loadProgram bytes) r = loadProgram bytes r := rfl

@[simp] theorem apply_step (keys : BitVec 16) (rnd : Byte) (r : Session) :
    apply (.step keys rnd) r = hostStep keys rnd r := rfl

@[simp] theorem apply_resume (k : Key) (r : Session) :
    apply (.resume k) r = .next ({ r with core := r.core.resume k }, .nothing) := rfl

@[simp] theorem apply_tickTimers (r : Session) :
    apply .tickTimers r = .next ({ r with core := r.core.tickTimers }, .nothing) := rfl

@[simp] theorem apply_clearRedraw (r : Session) :
    apply .clearRedraw r = .next ({ r with core := r.core.clearRedraw }, .nothing) := rfl

/-- All a step applied by the host can answer. -/
theorem hostStep_next {keys : BitVec 16} {rnd : Byte} {r r' : Session} {x : OpResult}
    (h : hostStep keys rnd r = .next (r', x)) :
    ∃ t, stepOn keys rnd r.core = .next t ∧ r' = { core := t, fresh := false } ∧ x = t.stepResult := by
  unfold hostStep at h
  split at h <;> cases h
  exact ⟨_, ‹_›, rfl, rfl⟩

/-- All a load can answer. -/
theorem loadProgram_next {bytes : List Byte} {r r' : Session} {x : OpResult}
    (h : loadProgram bytes r = .next (r', x)) :
    r.fresh = true ∧ r.core = r.core.afterReset ∧
      ((Config.progMax < bytes.length ∧ r' = r ∧ x = .romTooLarge) ∨
        (bytes.length ≤ Config.progMax ∧ x = .ok ∧
          r' = { core := r.core.storeBytes Config.progBase bytes, fresh := false })) := by
  unfold loadProgram at h
  split at h
  · rename_i hl
    obtain ⟨hf, hr⟩ : r.fresh = true ∧ r.core = r.core.afterReset := by simpa [Session.loadable] using hl
    split at h <;> cases h
    · exact ⟨hf, hr, .inl ⟨‹_›, rfl, rfl⟩⟩
    · exact ⟨hf, hr, .inr ⟨Nat.le_of_not_lt ‹_›, rfl, rfl⟩⟩
  · cases h

/-- `reset` twice is `reset` once. -/
@[simp] theorem State.afterReset_afterReset (s : State) : s.afterReset.afterReset = s.afterReset := rfl

end Sys2Proof.Machine
end

