-- ==== Sys2Proof/Laws/State.lean ====
section
/-! SUPPORT. One lemma per field and accessor per named update of the state, so that no proof unfolds a record update. -/

namespace Sys2Proof.Machine

variable (s : State)

/-! `setReg` -/

@[simp] theorem State.setReg_v (r : Reg) (b : Byte) : (s.setReg r b).v = s.v.set r.val b r.isLt := rfl
@[simp] theorem State.setReg_i (r : Reg) (b : Byte) : (s.setReg r b).i = s.i := rfl
@[simp] theorem State.setReg_pc (r : Reg) (b : Byte) : (s.setReg r b).pc = s.pc := rfl
@[simp] theorem State.setReg_dt (r : Reg) (b : Byte) : (s.setReg r b).dt = s.dt := rfl
@[simp] theorem State.setReg_st (r : Reg) (b : Byte) : (s.setReg r b).st = s.st := rfl
@[simp] theorem State.setReg_mem (r : Reg) (b : Byte) : (s.setReg r b).mem = s.mem := rfl
@[simp] theorem State.setReg_stack (r : Reg) (b : Byte) : (s.setReg r b).stack = s.stack := rfl
@[simp] theorem State.setReg_sp (r : Reg) (b : Byte) : (s.setReg r b).sp = s.sp := rfl
@[simp] theorem State.setReg_fb (r : Reg) (b : Byte) : (s.setReg r b).fb = s.fb := rfl
@[simp] theorem State.setReg_redraw (r : Reg) (b : Byte) : (s.setReg r b).redraw = s.redraw := rfl
@[simp] theorem State.setReg_run (r : Reg) (b : Byte) : (s.setReg r b).run = s.run := rfl
@[simp] theorem State.setReg_waitReg (r : Reg) (b : Byte) : (s.setReg r b).waitReg = s.waitReg := rfl
@[simp] theorem State.setReg_fault (r : Reg) (b : Byte) : (s.setReg r b).fault = s.fault := rfl
@[simp] theorem State.setReg_faultOp (r : Reg) (b : Byte) : (s.setReg r b).faultOp = s.faultOp := rfl
@[simp] theorem State.setReg_font (r : Reg) (b : Byte) : (s.setReg r b).font = s.font := rfl
@[simp] theorem State.setReg_keyIn (r : Reg) (b : Byte) : (s.setReg r b).keyIn = s.keyIn := rfl
@[simp] theorem State.setReg_rndIn (r : Reg) (b : Byte) : (s.setReg r b).rndIn = s.rndIn := rfl
@[simp] theorem State.setReg_byteAt (r : Reg) (b : Byte) (a' : Nat) : (s.setReg r b).byteAt a' = s.byteAt a' := rfl
@[simp] theorem State.setReg_npc (r : Reg) (b : Byte) : (s.setReg r b).npc = s.npc := rfl
@[simp] theorem State.setReg_keys (r : Reg) (b : Byte) : (s.setReg r b).keys = s.keys := rfl
@[simp] theorem State.setReg_rnd (r : Reg) (b : Byte) : (s.setReg r b).rnd = s.rnd := rfl
@[simp] theorem State.setReg_top (r : Reg) (b : Byte) : (s.setReg r b).top = s.top := rfl

/-! `setI` -/

@[simp] theorem State.setI_v (w : Word) : (s.setI w).v = s.v := rfl
@[simp] theorem State.setI_i (w : Word) : (s.setI w).i = w := rfl
@[simp] theorem State.setI_pc (w : Word) : (s.setI w).pc = s.pc := rfl
@[simp] theorem State.setI_dt (w : Word) : (s.setI w).dt = s.dt := rfl
@[simp] theorem State.setI_st (w : Word) : (s.setI w).st = s.st := rfl
@[simp] theorem State.setI_mem (w : Word) : (s.setI w).mem = s.mem := rfl
@[simp] theorem State.setI_stack (w : Word) : (s.setI w).stack = s.stack := rfl
@[simp] theorem State.setI_sp (w : Word) : (s.setI w).sp = s.sp := rfl
@[simp] theorem State.setI_fb (w : Word) : (s.setI w).fb = s.fb := rfl
@[simp] theorem State.setI_redraw (w : Word) : (s.setI w).redraw = s.redraw := rfl
@[simp] theorem State.setI_run (w : Word) : (s.setI w).run = s.run := rfl
@[simp] theorem State.setI_waitReg (w : Word) : (s.setI w).waitReg = s.waitReg := rfl
@[simp] theorem State.setI_fault (w : Word) : (s.setI w).fault = s.fault := rfl
@[simp] theorem State.setI_faultOp (w : Word) : (s.setI w).faultOp = s.faultOp := rfl
@[simp] theorem State.setI_font (w : Word) : (s.setI w).font = s.font := rfl
@[simp] theorem State.setI_keyIn (w : Word) : (s.setI w).keyIn = s.keyIn := rfl
@[simp] theorem State.setI_rndIn (w : Word) : (s.setI w).rndIn = s.rndIn := rfl
@[simp] theorem State.setI_reg (w : Word) (r' : Reg) : (s.setI w).reg r' = s.reg r' := rfl
@[simp] theorem State.setI_byteAt (w : Word) (a' : Nat) : (s.setI w).byteAt a' = s.byteAt a' := rfl
@[simp] theorem State.setI_npc (w : Word) : (s.setI w).npc = s.npc := rfl
@[simp] theorem State.setI_keys (w : Word) : (s.setI w).keys = s.keys := rfl
@[simp] theorem State.setI_rnd (w : Word) : (s.setI w).rnd = s.rnd := rfl
@[simp] theorem State.setI_top (w : Word) : (s.setI w).top = s.top := rfl

/-! `setDt` -/

@[simp] theorem State.setDt_v (b : Byte) : (s.setDt b).v = s.v := rfl
@[simp] theorem State.setDt_i (b : Byte) : (s.setDt b).i = s.i := rfl
@[simp] theorem State.setDt_pc (b : Byte) : (s.setDt b).pc = s.pc := rfl
@[simp] theorem State.setDt_dt (b : Byte) : (s.setDt b).dt = b := rfl
@[simp] theorem State.setDt_st (b : Byte) : (s.setDt b).st = s.st := rfl
@[simp] theorem State.setDt_mem (b : Byte) : (s.setDt b).mem = s.mem := rfl
@[simp] theorem State.setDt_stack (b : Byte) : (s.setDt b).stack = s.stack := rfl
@[simp] theorem State.setDt_sp (b : Byte) : (s.setDt b).sp = s.sp := rfl
@[simp] theorem State.setDt_fb (b : Byte) : (s.setDt b).fb = s.fb := rfl
@[simp] theorem State.setDt_redraw (b : Byte) : (s.setDt b).redraw = s.redraw := rfl
@[simp] theorem State.setDt_run (b : Byte) : (s.setDt b).run = s.run := rfl
@[simp] theorem State.setDt_waitReg (b : Byte) : (s.setDt b).waitReg = s.waitReg := rfl
@[simp] theorem State.setDt_fault (b : Byte) : (s.setDt b).fault = s.fault := rfl
@[simp] theorem State.setDt_faultOp (b : Byte) : (s.setDt b).faultOp = s.faultOp := rfl
@[simp] theorem State.setDt_font (b : Byte) : (s.setDt b).font = s.font := rfl
@[simp] theorem State.setDt_keyIn (b : Byte) : (s.setDt b).keyIn = s.keyIn := rfl
@[simp] theorem State.setDt_rndIn (b : Byte) : (s.setDt b).rndIn = s.rndIn := rfl
@[simp] theorem State.setDt_reg (b : Byte) (r' : Reg) : (s.setDt b).reg r' = s.reg r' := rfl
@[simp] theorem State.setDt_byteAt (b : Byte) (a' : Nat) : (s.setDt b).byteAt a' = s.byteAt a' := rfl
@[simp] theorem State.setDt_npc (b : Byte) : (s.setDt b).npc = s.npc := rfl
@[simp] theorem State.setDt_keys (b : Byte) : (s.setDt b).keys = s.keys := rfl
@[simp] theorem State.setDt_rnd (b : Byte) : (s.setDt b).rnd = s.rnd := rfl
@[simp] theorem State.setDt_top (b : Byte) : (s.setDt b).top = s.top := rfl

/-! `setSt` -/

@[simp] theorem State.setSt_v (b : Byte) : (s.setSt b).v = s.v := rfl
@[simp] theorem State.setSt_i (b : Byte) : (s.setSt b).i = s.i := rfl
@[simp] theorem State.setSt_pc (b : Byte) : (s.setSt b).pc = s.pc := rfl
@[simp] theorem State.setSt_dt (b : Byte) : (s.setSt b).dt = s.dt := rfl
@[simp] theorem State.setSt_st (b : Byte) : (s.setSt b).st = b := rfl
@[simp] theorem State.setSt_mem (b : Byte) : (s.setSt b).mem = s.mem := rfl
@[simp] theorem State.setSt_stack (b : Byte) : (s.setSt b).stack = s.stack := rfl
@[simp] theorem State.setSt_sp (b : Byte) : (s.setSt b).sp = s.sp := rfl
@[simp] theorem State.setSt_fb (b : Byte) : (s.setSt b).fb = s.fb := rfl
@[simp] theorem State.setSt_redraw (b : Byte) : (s.setSt b).redraw = s.redraw := rfl
@[simp] theorem State.setSt_run (b : Byte) : (s.setSt b).run = s.run := rfl
@[simp] theorem State.setSt_waitReg (b : Byte) : (s.setSt b).waitReg = s.waitReg := rfl
@[simp] theorem State.setSt_fault (b : Byte) : (s.setSt b).fault = s.fault := rfl
@[simp] theorem State.setSt_faultOp (b : Byte) : (s.setSt b).faultOp = s.faultOp := rfl
@[simp] theorem State.setSt_font (b : Byte) : (s.setSt b).font = s.font := rfl
@[simp] theorem State.setSt_keyIn (b : Byte) : (s.setSt b).keyIn = s.keyIn := rfl
@[simp] theorem State.setSt_rndIn (b : Byte) : (s.setSt b).rndIn = s.rndIn := rfl
@[simp] theorem State.setSt_reg (b : Byte) (r' : Reg) : (s.setSt b).reg r' = s.reg r' := rfl
@[simp] theorem State.setSt_byteAt (b : Byte) (a' : Nat) : (s.setSt b).byteAt a' = s.byteAt a' := rfl
@[simp] theorem State.setSt_npc (b : Byte) : (s.setSt b).npc = s.npc := rfl
@[simp] theorem State.setSt_keys (b : Byte) : (s.setSt b).keys = s.keys := rfl
@[simp] theorem State.setSt_rnd (b : Byte) : (s.setSt b).rnd = s.rnd := rfl
@[simp] theorem State.setSt_top (b : Byte) : (s.setSt b).top = s.top := rfl

/-! `advance` -/

@[simp] theorem State.advance_v : s.advance.v = s.v := rfl
@[simp] theorem State.advance_i : s.advance.i = s.i := rfl
@[simp] theorem State.advance_pc : s.advance.pc = s.npc := rfl
@[simp] theorem State.advance_dt : s.advance.dt = s.dt := rfl
@[simp] theorem State.advance_st : s.advance.st = s.st := rfl
@[simp] theorem State.advance_mem : s.advance.mem = s.mem := rfl
@[simp] theorem State.advance_stack : s.advance.stack = s.stack := rfl
@[simp] theorem State.advance_sp : s.advance.sp = s.sp := rfl
@[simp] theorem State.advance_fb : s.advance.fb = s.fb := rfl
@[simp] theorem State.advance_redraw : s.advance.redraw = s.redraw := rfl
@[simp] theorem State.advance_run : s.advance.run = s.run := rfl
@[simp] theorem State.advance_waitReg : s.advance.waitReg = s.waitReg := rfl
@[simp] theorem State.advance_fault : s.advance.fault = s.fault := rfl
@[simp] theorem State.advance_faultOp : s.advance.faultOp = s.faultOp := rfl
@[simp] theorem State.advance_font : s.advance.font = s.font := rfl
@[simp] theorem State.advance_keyIn : s.advance.keyIn = s.keyIn := rfl
@[simp] theorem State.advance_rndIn : s.advance.rndIn = s.rndIn := rfl
@[simp] theorem State.advance_reg (r' : Reg) : s.advance.reg r' = s.reg r' := rfl
@[simp] theorem State.advance_byteAt (a' : Nat) : s.advance.byteAt a' = s.byteAt a' := rfl
@[simp] theorem State.advance_keys : s.advance.keys = s.keys := rfl
@[simp] theorem State.advance_rnd : s.advance.rnd = s.rnd := rfl
@[simp] theorem State.advance_top : s.advance.top = s.top := rfl

/-! `jump` -/

@[simp] theorem State.jump_v (w : Word) : (s.jump w).v = s.v := rfl
@[simp] theorem State.jump_i (w : Word) : (s.jump w).i = s.i := rfl
@[simp] theorem State.jump_pc (w : Word) : (s.jump w).pc = w := rfl
@[simp] theorem State.jump_dt (w : Word) : (s.jump w).dt = s.dt := rfl
@[simp] theorem State.jump_st (w : Word) : (s.jump w).st = s.st := rfl
@[simp] theorem State.jump_mem (w : Word) : (s.jump w).mem = s.mem := rfl
@[simp] theorem State.jump_stack (w : Word) : (s.jump w).stack = s.stack := rfl
@[simp] theorem State.jump_sp (w : Word) : (s.jump w).sp = s.sp := rfl
@[simp] theorem State.jump_fb (w : Word) : (s.jump w).fb = s.fb := rfl
@[simp] theorem State.jump_redraw (w : Word) : (s.jump w).redraw = s.redraw := rfl
@[simp] theorem State.jump_run (w : Word) : (s.jump w).run = s.run := rfl
@[simp] theorem State.jump_waitReg (w : Word) : (s.jump w).waitReg = s.waitReg := rfl
@[simp] theorem State.jump_fault (w : Word) : (s.jump w).fault = s.fault := rfl
@[simp] theorem State.jump_faultOp (w : Word) : (s.jump w).faultOp = s.faultOp := rfl
@[simp] theorem State.jump_font (w : Word) : (s.jump w).font = s.font := rfl
@[simp] theorem State.jump_keyIn (w : Word) : (s.jump w).keyIn = s.keyIn := rfl
@[simp] theorem State.jump_rndIn (w : Word) : (s.jump w).rndIn = s.rndIn := rfl
@[simp] theorem State.jump_reg (w : Word) (r' : Reg) : (s.jump w).reg r' = s.reg r' := rfl
@[simp] theorem State.jump_byteAt (w : Word) (a' : Nat) : (s.jump w).byteAt a' = s.byteAt a' := rfl
@[simp] theorem State.jump_keys (w : Word) : (s.jump w).keys = s.keys := rfl
@[simp] theorem State.jump_rnd (w : Word) : (s.jump w).rnd = s.rnd := rfl
@[simp] theorem State.jump_top (w : Word) : (s.jump w).top = s.top := rfl

/-! `skipWhen` -/

@[simp] theorem State.skipWhen_v (c : Bool) : (s.skipWhen c).v = s.v := rfl
@[simp] theorem State.skipWhen_i (c : Bool) : (s.skipWhen c).i = s.i := rfl
@[simp] theorem State.skipWhen_pc (c : Bool) : (s.skipWhen c).pc = if c then s.npc + 2 else s.npc := rfl
@[simp] theorem State.skipWhen_dt (c : Bool) : (s.skipWhen c).dt = s.dt := rfl
@[simp] theorem State.skipWhen_st (c : Bool) : (s.skipWhen c).st = s.st := rfl
@[simp] theorem State.skipWhen_mem (c : Bool) : (s.skipWhen c).mem = s.mem := rfl
@[simp] theorem State.skipWhen_stack (c : Bool) : (s.skipWhen c).stack = s.stack := rfl
@[simp] theorem State.skipWhen_sp (c : Bool) : (s.skipWhen c).sp = s.sp := rfl
@[simp] theorem State.skipWhen_fb (c : Bool) : (s.skipWhen c).fb = s.fb := rfl
@[simp] theorem State.skipWhen_redraw (c : Bool) : (s.skipWhen c).redraw = s.redraw := rfl
@[simp] theorem State.skipWhen_run (c : Bool) : (s.skipWhen c).run = s.run := rfl
@[simp] theorem State.skipWhen_waitReg (c : Bool) : (s.skipWhen c).waitReg = s.waitReg := rfl
@[simp] theorem State.skipWhen_fault (c : Bool) : (s.skipWhen c).fault = s.fault := rfl
@[simp] theorem State.skipWhen_faultOp (c : Bool) : (s.skipWhen c).faultOp = s.faultOp := rfl
@[simp] theorem State.skipWhen_font (c : Bool) : (s.skipWhen c).font = s.font := rfl
@[simp] theorem State.skipWhen_keyIn (c : Bool) : (s.skipWhen c).keyIn = s.keyIn := rfl
@[simp] theorem State.skipWhen_rndIn (c : Bool) : (s.skipWhen c).rndIn = s.rndIn := rfl
@[simp] theorem State.skipWhen_reg (c : Bool) (r' : Reg) : (s.skipWhen c).reg r' = s.reg r' := rfl
@[simp] theorem State.skipWhen_byteAt (c : Bool) (a' : Nat) : (s.skipWhen c).byteAt a' = s.byteAt a' := rfl
@[simp] theorem State.skipWhen_keys (c : Bool) : (s.skipWhen c).keys = s.keys := rfl
@[simp] theorem State.skipWhen_rnd (c : Bool) : (s.skipWhen c).rnd = s.rnd := rfl
@[simp] theorem State.skipWhen_top (c : Bool) : (s.skipWhen c).top = s.top := rfl

/-! `storeByte` -/

@[simp] theorem State.storeByte_v (a : Nat) (b : Byte) : (s.storeByte a b).v = s.v := rfl
@[simp] theorem State.storeByte_i (a : Nat) (b : Byte) : (s.storeByte a b).i = s.i := rfl
@[simp] theorem State.storeByte_pc (a : Nat) (b : Byte) : (s.storeByte a b).pc = s.pc := rfl
@[simp] theorem State.storeByte_dt (a : Nat) (b : Byte) : (s.storeByte a b).dt = s.dt := rfl
@[simp] theorem State.storeByte_st (a : Nat) (b : Byte) : (s.storeByte a b).st = s.st := rfl
@[simp] theorem State.storeByte_mem (a : Nat) (b : Byte) : (s.storeByte a b).mem = Memory.write s.font s.mem a b := rfl
@[simp] theorem State.storeByte_stack (a : Nat) (b : Byte) : (s.storeByte a b).stack = s.stack := rfl
@[simp] theorem State.storeByte_sp (a : Nat) (b : Byte) : (s.storeByte a b).sp = s.sp := rfl
@[simp] theorem State.storeByte_fb (a : Nat) (b : Byte) : (s.storeByte a b).fb = s.fb := rfl
@[simp] theorem State.storeByte_redraw (a : Nat) (b : Byte) : (s.storeByte a b).redraw = s.redraw := rfl
@[simp] theorem State.storeByte_run (a : Nat) (b : Byte) : (s.storeByte a b).run = s.run := rfl
@[simp] theorem State.storeByte_waitReg (a : Nat) (b : Byte) : (s.storeByte a b).waitReg = s.waitReg := rfl
@[simp] theorem State.storeByte_fault (a : Nat) (b : Byte) : (s.storeByte a b).fault = s.fault := rfl
@[simp] theorem State.storeByte_faultOp (a : Nat) (b : Byte) : (s.storeByte a b).faultOp = s.faultOp := rfl
@[simp] theorem State.storeByte_font (a : Nat) (b : Byte) : (s.storeByte a b).font = s.font := rfl
@[simp] theorem State.storeByte_keyIn (a : Nat) (b : Byte) : (s.storeByte a b).keyIn = s.keyIn := rfl
@[simp] theorem State.storeByte_rndIn (a : Nat) (b : Byte) : (s.storeByte a b).rndIn = s.rndIn := rfl
@[simp] theorem State.storeByte_reg (a : Nat) (b : Byte) (r' : Reg) : (s.storeByte a b).reg r' = s.reg r' := rfl
@[simp] theorem State.storeByte_npc (a : Nat) (b : Byte) : (s.storeByte a b).npc = s.npc := rfl
@[simp] theorem State.storeByte_keys (a : Nat) (b : Byte) : (s.storeByte a b).keys = s.keys := rfl
@[simp] theorem State.storeByte_rnd (a : Nat) (b : Byte) : (s.storeByte a b).rnd = s.rnd := rfl
@[simp] theorem State.storeByte_top (a : Nat) (b : Byte) : (s.storeByte a b).top = s.top := rfl

/-! `present` -/

@[simp] theorem State.present_v (fb : Framebuffer) : (s.present fb).v = s.v := rfl
@[simp] theorem State.present_i (fb : Framebuffer) : (s.present fb).i = s.i := rfl
@[simp] theorem State.present_pc (fb : Framebuffer) : (s.present fb).pc = s.pc := rfl
@[simp] theorem State.present_dt (fb : Framebuffer) : (s.present fb).dt = s.dt := rfl
@[simp] theorem State.present_st (fb : Framebuffer) : (s.present fb).st = s.st := rfl
@[simp] theorem State.present_mem (fb : Framebuffer) : (s.present fb).mem = s.mem := rfl
@[simp] theorem State.present_stack (fb : Framebuffer) : (s.present fb).stack = s.stack := rfl
@[simp] theorem State.present_sp (fb : Framebuffer) : (s.present fb).sp = s.sp := rfl
@[simp] theorem State.present_fb (fb : Framebuffer) : (s.present fb).fb = fb := rfl
@[simp] theorem State.present_redraw (fb : Framebuffer) : (s.present fb).redraw = true := rfl
@[simp] theorem State.present_run (fb : Framebuffer) : (s.present fb).run = s.run := rfl
@[simp] theorem State.present_waitReg (fb : Framebuffer) : (s.present fb).waitReg = s.waitReg := rfl
@[simp] theorem State.present_fault (fb : Framebuffer) : (s.present fb).fault = s.fault := rfl
@[simp] theorem State.present_faultOp (fb : Framebuffer) : (s.present fb).faultOp = s.faultOp := rfl
@[simp] theorem State.present_font (fb : Framebuffer) : (s.present fb).font = s.font := rfl
@[simp] theorem State.present_keyIn (fb : Framebuffer) : (s.present fb).keyIn = s.keyIn := rfl
@[simp] theorem State.present_rndIn (fb : Framebuffer) : (s.present fb).rndIn = s.rndIn := rfl
@[simp] theorem State.present_reg (fb : Framebuffer) (r' : Reg) : (s.present fb).reg r' = s.reg r' := rfl
@[simp] theorem State.present_byteAt (fb : Framebuffer) (a' : Nat) : (s.present fb).byteAt a' = s.byteAt a' := rfl
@[simp] theorem State.present_npc (fb : Framebuffer) : (s.present fb).npc = s.npc := rfl
@[simp] theorem State.present_keys (fb : Framebuffer) : (s.present fb).keys = s.keys := rfl
@[simp] theorem State.present_rnd (fb : Framebuffer) : (s.present fb).rnd = s.rnd := rfl
@[simp] theorem State.present_top (fb : Framebuffer) : (s.present fb).top = s.top := rfl

/-! `enterWait` -/

@[simp] theorem State.enterWait_v (x : Reg) : (s.enterWait x).v = s.v := rfl
@[simp] theorem State.enterWait_i (x : Reg) : (s.enterWait x).i = s.i := rfl
@[simp] theorem State.enterWait_pc (x : Reg) : (s.enterWait x).pc = s.pc := rfl
@[simp] theorem State.enterWait_dt (x : Reg) : (s.enterWait x).dt = s.dt := rfl
@[simp] theorem State.enterWait_st (x : Reg) : (s.enterWait x).st = s.st := rfl
@[simp] theorem State.enterWait_mem (x : Reg) : (s.enterWait x).mem = s.mem := rfl
@[simp] theorem State.enterWait_stack (x : Reg) : (s.enterWait x).stack = s.stack := rfl
@[simp] theorem State.enterWait_sp (x : Reg) : (s.enterWait x).sp = s.sp := rfl
@[simp] theorem State.enterWait_fb (x : Reg) : (s.enterWait x).fb = s.fb := rfl
@[simp] theorem State.enterWait_redraw (x : Reg) : (s.enterWait x).redraw = s.redraw := rfl
@[simp] theorem State.enterWait_run (x : Reg) : (s.enterWait x).run = .waiting := rfl
@[simp] theorem State.enterWait_waitReg (x : Reg) : (s.enterWait x).waitReg = x := rfl
@[simp] theorem State.enterWait_fault (x : Reg) : (s.enterWait x).fault = s.fault := rfl
@[simp] theorem State.enterWait_faultOp (x : Reg) : (s.enterWait x).faultOp = s.faultOp := rfl
@[simp] theorem State.enterWait_font (x : Reg) : (s.enterWait x).font = s.font := rfl
@[simp] theorem State.enterWait_keyIn (x : Reg) : (s.enterWait x).keyIn = s.keyIn := rfl
@[simp] theorem State.enterWait_rndIn (x : Reg) : (s.enterWait x).rndIn = s.rndIn := rfl
@[simp] theorem State.enterWait_reg (x : Reg) (r' : Reg) : (s.enterWait x).reg r' = s.reg r' := rfl
@[simp] theorem State.enterWait_byteAt (x : Reg) (a' : Nat) : (s.enterWait x).byteAt a' = s.byteAt a' := rfl
@[simp] theorem State.enterWait_npc (x : Reg) : (s.enterWait x).npc = s.npc := rfl
@[simp] theorem State.enterWait_keys (x : Reg) : (s.enterWait x).keys = s.keys := rfl
@[simp] theorem State.enterWait_rnd (x : Reg) : (s.enterWait x).rnd = s.rnd := rfl
@[simp] theorem State.enterWait_top (x : Reg) : (s.enterWait x).top = s.top := rfl

/-! `keysTaken` -/

@[simp] theorem State.keysTaken_v : s.keysTaken.v = s.v := rfl
@[simp] theorem State.keysTaken_i : s.keysTaken.i = s.i := rfl
@[simp] theorem State.keysTaken_pc : s.keysTaken.pc = s.pc := rfl
@[simp] theorem State.keysTaken_dt : s.keysTaken.dt = s.dt := rfl
@[simp] theorem State.keysTaken_st : s.keysTaken.st = s.st := rfl
@[simp] theorem State.keysTaken_mem : s.keysTaken.mem = s.mem := rfl
@[simp] theorem State.keysTaken_stack : s.keysTaken.stack = s.stack := rfl
@[simp] theorem State.keysTaken_sp : s.keysTaken.sp = s.sp := rfl
@[simp] theorem State.keysTaken_fb : s.keysTaken.fb = s.fb := rfl
@[simp] theorem State.keysTaken_redraw : s.keysTaken.redraw = s.redraw := rfl
@[simp] theorem State.keysTaken_run : s.keysTaken.run = s.run := rfl
@[simp] theorem State.keysTaken_waitReg : s.keysTaken.waitReg = s.waitReg := rfl
@[simp] theorem State.keysTaken_fault : s.keysTaken.fault = s.fault := rfl
@[simp] theorem State.keysTaken_faultOp : s.keysTaken.faultOp = s.faultOp := rfl
@[simp] theorem State.keysTaken_font : s.keysTaken.font = s.font := rfl
@[simp] theorem State.keysTaken_keyIn : s.keysTaken.keyIn = s.keyIn.advance := rfl
@[simp] theorem State.keysTaken_rndIn : s.keysTaken.rndIn = s.rndIn := rfl
@[simp] theorem State.keysTaken_reg (r' : Reg) : s.keysTaken.reg r' = s.reg r' := rfl
@[simp] theorem State.keysTaken_byteAt (a' : Nat) : s.keysTaken.byteAt a' = s.byteAt a' := rfl
@[simp] theorem State.keysTaken_npc : s.keysTaken.npc = s.npc := rfl
@[simp] theorem State.keysTaken_rnd : s.keysTaken.rnd = s.rnd := rfl
@[simp] theorem State.keysTaken_top : s.keysTaken.top = s.top := rfl

/-! `rndTaken` -/

@[simp] theorem State.rndTaken_v : s.rndTaken.v = s.v := rfl
@[simp] theorem State.rndTaken_i : s.rndTaken.i = s.i := rfl
@[simp] theorem State.rndTaken_pc : s.rndTaken.pc = s.pc := rfl
@[simp] theorem State.rndTaken_dt : s.rndTaken.dt = s.dt := rfl
@[simp] theorem State.rndTaken_st : s.rndTaken.st = s.st := rfl
@[simp] theorem State.rndTaken_mem : s.rndTaken.mem = s.mem := rfl
@[simp] theorem State.rndTaken_stack : s.rndTaken.stack = s.stack := rfl
@[simp] theorem State.rndTaken_sp : s.rndTaken.sp = s.sp := rfl
@[simp] theorem State.rndTaken_fb : s.rndTaken.fb = s.fb := rfl
@[simp] theorem State.rndTaken_redraw : s.rndTaken.redraw = s.redraw := rfl
@[simp] theorem State.rndTaken_run : s.rndTaken.run = s.run := rfl
@[simp] theorem State.rndTaken_waitReg : s.rndTaken.waitReg = s.waitReg := rfl
@[simp] theorem State.rndTaken_fault : s.rndTaken.fault = s.fault := rfl
@[simp] theorem State.rndTaken_faultOp : s.rndTaken.faultOp = s.faultOp := rfl
@[simp] theorem State.rndTaken_font : s.rndTaken.font = s.font := rfl
@[simp] theorem State.rndTaken_keyIn : s.rndTaken.keyIn = s.keyIn := rfl
@[simp] theorem State.rndTaken_rndIn : s.rndTaken.rndIn = s.rndIn.advance := rfl
@[simp] theorem State.rndTaken_reg (r' : Reg) : s.rndTaken.reg r' = s.reg r' := rfl
@[simp] theorem State.rndTaken_byteAt (a' : Nat) : s.rndTaken.byteAt a' = s.byteAt a' := rfl
@[simp] theorem State.rndTaken_npc : s.rndTaken.npc = s.npc := rfl
@[simp] theorem State.rndTaken_keys : s.rndTaken.keys = s.keys := rfl
@[simp] theorem State.rndTaken_top : s.rndTaken.top = s.top := rfl

/-! `raise` -/

@[simp] theorem State.raise_v (f : FaultCode) : (s.raise f).v = s.v := rfl
@[simp] theorem State.raise_i (f : FaultCode) : (s.raise f).i = s.i := rfl
@[simp] theorem State.raise_pc (f : FaultCode) : (s.raise f).pc = s.pc := rfl
@[simp] theorem State.raise_dt (f : FaultCode) : (s.raise f).dt = s.dt := rfl
@[simp] theorem State.raise_st (f : FaultCode) : (s.raise f).st = s.st := rfl
@[simp] theorem State.raise_mem (f : FaultCode) : (s.raise f).mem = s.mem := rfl
@[simp] theorem State.raise_stack (f : FaultCode) : (s.raise f).stack = s.stack := rfl
@[simp] theorem State.raise_sp (f : FaultCode) : (s.raise f).sp = s.sp := rfl
@[simp] theorem State.raise_fb (f : FaultCode) : (s.raise f).fb = s.fb := rfl
@[simp] theorem State.raise_redraw (f : FaultCode) : (s.raise f).redraw = s.redraw := rfl
@[simp] theorem State.raise_run (f : FaultCode) : (s.raise f).run = .faulted := rfl
@[simp] theorem State.raise_waitReg (f : FaultCode) : (s.raise f).waitReg = s.waitReg := rfl
@[simp] theorem State.raise_fault (f : FaultCode) : (s.raise f).fault = f := rfl
@[simp] theorem State.raise_faultOp (f : FaultCode) : (s.raise f).faultOp = s.faultOp := rfl
@[simp] theorem State.raise_font (f : FaultCode) : (s.raise f).font = s.font := rfl
@[simp] theorem State.raise_keyIn (f : FaultCode) : (s.raise f).keyIn = s.keyIn := rfl
@[simp] theorem State.raise_rndIn (f : FaultCode) : (s.raise f).rndIn = s.rndIn := rfl
@[simp] theorem State.raise_reg (f : FaultCode) (r' : Reg) : (s.raise f).reg r' = s.reg r' := rfl
@[simp] theorem State.raise_byteAt (f : FaultCode) (a' : Nat) : (s.raise f).byteAt a' = s.byteAt a' := rfl
@[simp] theorem State.raise_npc (f : FaultCode) : (s.raise f).npc = s.npc := rfl
@[simp] theorem State.raise_keys (f : FaultCode) : (s.raise f).keys = s.keys := rfl
@[simp] theorem State.raise_rnd (f : FaultCode) : (s.raise f).rnd = s.rnd := rfl
@[simp] theorem State.raise_top (f : FaultCode) : (s.raise f).top = s.top := rfl

/-! `raiseInvalidOpcode` -/

@[simp] theorem State.raiseInvalidOpcode_v (op : Word) : (s.raiseInvalidOpcode op).v = s.v := rfl
@[simp] theorem State.raiseInvalidOpcode_i (op : Word) : (s.raiseInvalidOpcode op).i = s.i := rfl
@[simp] theorem State.raiseInvalidOpcode_pc (op : Word) : (s.raiseInvalidOpcode op).pc = s.pc := rfl
@[simp] theorem State.raiseInvalidOpcode_dt (op : Word) : (s.raiseInvalidOpcode op).dt = s.dt := rfl
@[simp] theorem State.raiseInvalidOpcode_st (op : Word) : (s.raiseInvalidOpcode op).st = s.st := rfl
@[simp] theorem State.raiseInvalidOpcode_mem (op : Word) : (s.raiseInvalidOpcode op).mem = s.mem := rfl
@[simp] theorem State.raiseInvalidOpcode_stack (op : Word) : (s.raiseInvalidOpcode op).stack = s.stack := rfl
@[simp] theorem State.raiseInvalidOpcode_sp (op : Word) : (s.raiseInvalidOpcode op).sp = s.sp := rfl
@[simp] theorem State.raiseInvalidOpcode_fb (op : Word) : (s.raiseInvalidOpcode op).fb = s.fb := rfl
@[simp] theorem State.raiseInvalidOpcode_redraw (op : Word) : (s.raiseInvalidOpcode op).redraw = s.redraw := rfl
@[simp] theorem State.raiseInvalidOpcode_run (op : Word) : (s.raiseInvalidOpcode op).run = .faulted := rfl
@[simp] theorem State.raiseInvalidOpcode_waitReg (op : Word) : (s.raiseInvalidOpcode op).waitReg = s.waitReg := rfl
@[simp] theorem State.raiseInvalidOpcode_fault (op : Word) : (s.raiseInvalidOpcode op).fault = .invalidOpcode := rfl
@[simp] theorem State.raiseInvalidOpcode_faultOp (op : Word) : (s.raiseInvalidOpcode op).faultOp = op := rfl
@[simp] theorem State.raiseInvalidOpcode_font (op : Word) : (s.raiseInvalidOpcode op).font = s.font := rfl
@[simp] theorem State.raiseInvalidOpcode_keyIn (op : Word) : (s.raiseInvalidOpcode op).keyIn = s.keyIn := rfl
@[simp] theorem State.raiseInvalidOpcode_rndIn (op : Word) : (s.raiseInvalidOpcode op).rndIn = s.rndIn := rfl
@[simp] theorem State.raiseInvalidOpcode_reg (op : Word) (r' : Reg) : (s.raiseInvalidOpcode op).reg r' = s.reg r' := rfl
@[simp] theorem State.raiseInvalidOpcode_byteAt (op : Word) (a' : Nat) : (s.raiseInvalidOpcode op).byteAt a' = s.byteAt a' := rfl
@[simp] theorem State.raiseInvalidOpcode_npc (op : Word) : (s.raiseInvalidOpcode op).npc = s.npc := rfl
@[simp] theorem State.raiseInvalidOpcode_keys (op : Word) : (s.raiseInvalidOpcode op).keys = s.keys := rfl
@[simp] theorem State.raiseInvalidOpcode_rnd (op : Word) : (s.raiseInvalidOpcode op).rnd = s.rnd := rfl
@[simp] theorem State.raiseInvalidOpcode_top (op : Word) : (s.raiseInvalidOpcode op).top = s.top := rfl

/-! `loadRegsUpTo` -/

@[simp] theorem State.loadRegsUpTo_i (x : Reg) (a : Nat) : (s.loadRegsUpTo x a).i = s.i := rfl
@[simp] theorem State.loadRegsUpTo_pc (x : Reg) (a : Nat) : (s.loadRegsUpTo x a).pc = s.pc := rfl
@[simp] theorem State.loadRegsUpTo_dt (x : Reg) (a : Nat) : (s.loadRegsUpTo x a).dt = s.dt := rfl
@[simp] theorem State.loadRegsUpTo_st (x : Reg) (a : Nat) : (s.loadRegsUpTo x a).st = s.st := rfl
@[simp] theorem State.loadRegsUpTo_mem (x : Reg) (a : Nat) : (s.loadRegsUpTo x a).mem = s.mem := rfl
@[simp] theorem State.loadRegsUpTo_stack (x : Reg) (a : Nat) : (s.loadRegsUpTo x a).stack = s.stack := rfl
@[simp] theorem State.loadRegsUpTo_sp (x : Reg) (a : Nat) : (s.loadRegsUpTo x a).sp = s.sp := rfl
@[simp] theorem State.loadRegsUpTo_fb (x : Reg) (a : Nat) : (s.loadRegsUpTo x a).fb = s.fb := rfl
@[simp] theorem State.loadRegsUpTo_redraw (x : Reg) (a : Nat) : (s.loadRegsUpTo x a).redraw = s.redraw := rfl
@[simp] theorem State.loadRegsUpTo_run (x : Reg) (a : Nat) : (s.loadRegsUpTo x a).run = s.run := rfl
@[simp] theorem State.loadRegsUpTo_waitReg (x : Reg) (a : Nat) : (s.loadRegsUpTo x a).waitReg = s.waitReg := rfl
@[simp] theorem State.loadRegsUpTo_fault (x : Reg) (a : Nat) : (s.loadRegsUpTo x a).fault = s.fault := rfl
@[simp] theorem State.loadRegsUpTo_faultOp (x : Reg) (a : Nat) : (s.loadRegsUpTo x a).faultOp = s.faultOp := rfl
@[simp] theorem State.loadRegsUpTo_font (x : Reg) (a : Nat) : (s.loadRegsUpTo x a).font = s.font := rfl
@[simp] theorem State.loadRegsUpTo_keyIn (x : Reg) (a : Nat) : (s.loadRegsUpTo x a).keyIn = s.keyIn := rfl
@[simp] theorem State.loadRegsUpTo_rndIn (x : Reg) (a : Nat) : (s.loadRegsUpTo x a).rndIn = s.rndIn := rfl
@[simp] theorem State.loadRegsUpTo_byteAt (x : Reg) (a : Nat) (a' : Nat) : (s.loadRegsUpTo x a).byteAt a' = s.byteAt a' := rfl
@[simp] theorem State.loadRegsUpTo_npc (x : Reg) (a : Nat) : (s.loadRegsUpTo x a).npc = s.npc := rfl
@[simp] theorem State.loadRegsUpTo_keys (x : Reg) (a : Nat) : (s.loadRegsUpTo x a).keys = s.keys := rfl
@[simp] theorem State.loadRegsUpTo_rnd (x : Reg) (a : Nat) : (s.loadRegsUpTo x a).rnd = s.rnd := rfl
@[simp] theorem State.loadRegsUpTo_top (x : Reg) (a : Nat) : (s.loadRegsUpTo x a).top = s.top := rfl

/-! `pop` -/

@[simp] theorem State.pop_v : s.pop.v = s.v := rfl
@[simp] theorem State.pop_i : s.pop.i = s.i := rfl
@[simp] theorem State.pop_pc : s.pop.pc = s.pc := rfl
@[simp] theorem State.pop_dt : s.pop.dt = s.dt := rfl
@[simp] theorem State.pop_st : s.pop.st = s.st := rfl
@[simp] theorem State.pop_mem : s.pop.mem = s.mem := rfl
@[simp] theorem State.pop_stack : s.pop.stack = s.stack := rfl
@[simp] theorem State.pop_fb : s.pop.fb = s.fb := rfl
@[simp] theorem State.pop_redraw : s.pop.redraw = s.redraw := rfl
@[simp] theorem State.pop_run : s.pop.run = s.run := rfl
@[simp] theorem State.pop_waitReg : s.pop.waitReg = s.waitReg := rfl
@[simp] theorem State.pop_fault : s.pop.fault = s.fault := rfl
@[simp] theorem State.pop_faultOp : s.pop.faultOp = s.faultOp := rfl
@[simp] theorem State.pop_font : s.pop.font = s.font := rfl
@[simp] theorem State.pop_keyIn : s.pop.keyIn = s.keyIn := rfl
@[simp] theorem State.pop_rndIn : s.pop.rndIn = s.rndIn := rfl
@[simp] theorem State.pop_reg (r' : Reg) : s.pop.reg r' = s.reg r' := rfl
@[simp] theorem State.pop_byteAt (a' : Nat) : s.pop.byteAt a' = s.byteAt a' := rfl
@[simp] theorem State.pop_npc : s.pop.npc = s.npc := rfl
@[simp] theorem State.pop_keys : s.pop.keys = s.keys := rfl
@[simp] theorem State.pop_rnd : s.pop.rnd = s.rnd := rfl

/-! `tickTimers` -/

@[simp] theorem State.tickTimers_v : s.tickTimers.v = s.v := rfl
@[simp] theorem State.tickTimers_i : s.tickTimers.i = s.i := rfl
@[simp] theorem State.tickTimers_pc : s.tickTimers.pc = s.pc := rfl
@[simp] theorem State.tickTimers_dt : s.tickTimers.dt = countDown s.dt := rfl
@[simp] theorem State.tickTimers_st : s.tickTimers.st = countDown s.st := rfl
@[simp] theorem State.tickTimers_mem : s.tickTimers.mem = s.mem := rfl
@[simp] theorem State.tickTimers_stack : s.tickTimers.stack = s.stack := rfl
@[simp] theorem State.tickTimers_sp : s.tickTimers.sp = s.sp := rfl
@[simp] theorem State.tickTimers_fb : s.tickTimers.fb = s.fb := rfl
@[simp] theorem State.tickTimers_redraw : s.tickTimers.redraw = s.redraw := rfl
@[simp] theorem State.tickTimers_run : s.tickTimers.run = s.run := rfl
@[simp] theorem State.tickTimers_waitReg : s.tickTimers.waitReg = s.waitReg := rfl
@[simp] theorem State.tickTimers_fault : s.tickTimers.fault = s.fault := rfl
@[simp] theorem State.tickTimers_faultOp : s.tickTimers.faultOp = s.faultOp := rfl
@[simp] theorem State.tickTimers_font : s.tickTimers.font = s.font := rfl
@[simp] theorem State.tickTimers_keyIn : s.tickTimers.keyIn = s.keyIn := rfl
@[simp] theorem State.tickTimers_rndIn : s.tickTimers.rndIn = s.rndIn := rfl
@[simp] theorem State.tickTimers_reg (r' : Reg) : s.tickTimers.reg r' = s.reg r' := rfl
@[simp] theorem State.tickTimers_byteAt (a' : Nat) : s.tickTimers.byteAt a' = s.byteAt a' := rfl
@[simp] theorem State.tickTimers_npc : s.tickTimers.npc = s.npc := rfl
@[simp] theorem State.tickTimers_keys : s.tickTimers.keys = s.keys := rfl
@[simp] theorem State.tickTimers_rnd : s.tickTimers.rnd = s.rnd := rfl
@[simp] theorem State.tickTimers_top : s.tickTimers.top = s.top := rfl

/-! `clearRedraw` -/

@[simp] theorem State.clearRedraw_v : s.clearRedraw.v = s.v := rfl
@[simp] theorem State.clearRedraw_i : s.clearRedraw.i = s.i := rfl
@[simp] theorem State.clearRedraw_pc : s.clearRedraw.pc = s.pc := rfl
@[simp] theorem State.clearRedraw_dt : s.clearRedraw.dt = s.dt := rfl
@[simp] theorem State.clearRedraw_st : s.clearRedraw.st = s.st := rfl
@[simp] theorem State.clearRedraw_mem : s.clearRedraw.mem = s.mem := rfl
@[simp] theorem State.clearRedraw_stack : s.clearRedraw.stack = s.stack := rfl
@[simp] theorem State.clearRedraw_sp : s.clearRedraw.sp = s.sp := rfl
@[simp] theorem State.clearRedraw_fb : s.clearRedraw.fb = s.fb := rfl
@[simp] theorem State.clearRedraw_redraw : s.clearRedraw.redraw = false := rfl
@[simp] theorem State.clearRedraw_run : s.clearRedraw.run = s.run := rfl
@[simp] theorem State.clearRedraw_waitReg : s.clearRedraw.waitReg = s.waitReg := rfl
@[simp] theorem State.clearRedraw_fault : s.clearRedraw.fault = s.fault := rfl
@[simp] theorem State.clearRedraw_faultOp : s.clearRedraw.faultOp = s.faultOp := rfl
@[simp] theorem State.clearRedraw_font : s.clearRedraw.font = s.font := rfl
@[simp] theorem State.clearRedraw_keyIn : s.clearRedraw.keyIn = s.keyIn := rfl
@[simp] theorem State.clearRedraw_rndIn : s.clearRedraw.rndIn = s.rndIn := rfl
@[simp] theorem State.clearRedraw_reg (r' : Reg) : s.clearRedraw.reg r' = s.reg r' := rfl
@[simp] theorem State.clearRedraw_byteAt (a' : Nat) : s.clearRedraw.byteAt a' = s.byteAt a' := rfl
@[simp] theorem State.clearRedraw_npc : s.clearRedraw.npc = s.npc := rfl
@[simp] theorem State.clearRedraw_keys : s.clearRedraw.keys = s.keys := rfl
@[simp] theorem State.clearRedraw_rnd : s.clearRedraw.rnd = s.rnd := rfl
@[simp] theorem State.clearRedraw_top : s.clearRedraw.top = s.top := rfl

/-! `setResultAndFlag` -/

@[simp] theorem State.setResultAndFlag_i (x : Reg) (b : Byte) (f : Bool) : (s.setResultAndFlag x b f).i = s.i := rfl
@[simp] theorem State.setResultAndFlag_pc (x : Reg) (b : Byte) (f : Bool) : (s.setResultAndFlag x b f).pc = s.pc := rfl
@[simp] theorem State.setResultAndFlag_dt (x : Reg) (b : Byte) (f : Bool) : (s.setResultAndFlag x b f).dt = s.dt := rfl
@[simp] theorem State.setResultAndFlag_st (x : Reg) (b : Byte) (f : Bool) : (s.setResultAndFlag x b f).st = s.st := rfl
@[simp] theorem State.setResultAndFlag_mem (x : Reg) (b : Byte) (f : Bool) : (s.setResultAndFlag x b f).mem = s.mem := rfl
@[simp] theorem State.setResultAndFlag_stack (x : Reg) (b : Byte) (f : Bool) : (s.setResultAndFlag x b f).stack = s.stack := rfl
@[simp] theorem State.setResultAndFlag_sp (x : Reg) (b : Byte) (f : Bool) : (s.setResultAndFlag x b f).sp = s.sp := rfl
@[simp] theorem State.setResultAndFlag_fb (x : Reg) (b : Byte) (f : Bool) : (s.setResultAndFlag x b f).fb = s.fb := rfl
@[simp] theorem State.setResultAndFlag_redraw (x : Reg) (b : Byte) (f : Bool) : (s.setResultAndFlag x b f).redraw = s.redraw := rfl
@[simp] theorem State.setResultAndFlag_run (x : Reg) (b : Byte) (f : Bool) : (s.setResultAndFlag x b f).run = s.run := rfl
@[simp] theorem State.setResultAndFlag_waitReg (x : Reg) (b : Byte) (f : Bool) : (s.setResultAndFlag x b f).waitReg = s.waitReg := rfl
@[simp] theorem State.setResultAndFlag_fault (x : Reg) (b : Byte) (f : Bool) : (s.setResultAndFlag x b f).fault = s.fault := rfl
@[simp] theorem State.setResultAndFlag_faultOp (x : Reg) (b : Byte) (f : Bool) : (s.setResultAndFlag x b f).faultOp = s.faultOp := rfl
@[simp] theorem State.setResultAndFlag_font (x : Reg) (b : Byte) (f : Bool) : (s.setResultAndFlag x b f).font = s.font := rfl
@[simp] theorem State.setResultAndFlag_keyIn (x : Reg) (b : Byte) (f : Bool) : (s.setResultAndFlag x b f).keyIn = s.keyIn := rfl
@[simp] theorem State.setResultAndFlag_rndIn (x : Reg) (b : Byte) (f : Bool) : (s.setResultAndFlag x b f).rndIn = s.rndIn := rfl
@[simp] theorem State.setResultAndFlag_byteAt (x : Reg) (b : Byte) (f : Bool) (a' : Nat) : (s.setResultAndFlag x b f).byteAt a' = s.byteAt a' := rfl
@[simp] theorem State.setResultAndFlag_npc (x : Reg) (b : Byte) (f : Bool) : (s.setResultAndFlag x b f).npc = s.npc := rfl
@[simp] theorem State.setResultAndFlag_keys (x : Reg) (b : Byte) (f : Bool) : (s.setResultAndFlag x b f).keys = s.keys := rfl
@[simp] theorem State.setResultAndFlag_rnd (x : Reg) (b : Byte) (f : Bool) : (s.setResultAndFlag x b f).rnd = s.rnd := rfl
@[simp] theorem State.setResultAndFlag_top (x : Reg) (b : Byte) (f : Bool) : (s.setResultAndFlag x b f).top = s.top := rfl

/-! `push` -/

@[simp] theorem State.push_v (w : Word) : (s.push w).v = s.v := by unfold State.push; split <;> rfl
@[simp] theorem State.push_i (w : Word) : (s.push w).i = s.i := by unfold State.push; split <;> rfl
@[simp] theorem State.push_pc (w : Word) : (s.push w).pc = s.pc := by unfold State.push; split <;> rfl
@[simp] theorem State.push_dt (w : Word) : (s.push w).dt = s.dt := by unfold State.push; split <;> rfl
@[simp] theorem State.push_st (w : Word) : (s.push w).st = s.st := by unfold State.push; split <;> rfl
@[simp] theorem State.push_mem (w : Word) : (s.push w).mem = s.mem := by unfold State.push; split <;> rfl
@[simp] theorem State.push_fb (w : Word) : (s.push w).fb = s.fb := by unfold State.push; split <;> rfl
@[simp] theorem State.push_redraw (w : Word) : (s.push w).redraw = s.redraw := by unfold State.push; split <;> rfl
@[simp] theorem State.push_run (w : Word) : (s.push w).run = s.run := by unfold State.push; split <;> rfl
@[simp] theorem State.push_waitReg (w : Word) : (s.push w).waitReg = s.waitReg := by unfold State.push; split <;> rfl
@[simp] theorem State.push_fault (w : Word) : (s.push w).fault = s.fault := by unfold State.push; split <;> rfl
@[simp] theorem State.push_faultOp (w : Word) : (s.push w).faultOp = s.faultOp := by unfold State.push; split <;> rfl
@[simp] theorem State.push_font (w : Word) : (s.push w).font = s.font := by unfold State.push; split <;> rfl
@[simp] theorem State.push_keyIn (w : Word) : (s.push w).keyIn = s.keyIn := by unfold State.push; split <;> rfl
@[simp] theorem State.push_rndIn (w : Word) : (s.push w).rndIn = s.rndIn := by unfold State.push; split <;> rfl
@[simp] theorem State.push_reg (w : Word) (r' : Reg) : (s.push w).reg r' = s.reg r' := by
  unfold State.push; split <;> rfl
@[simp] theorem State.push_byteAt (w : Word) (a' : Nat) : (s.push w).byteAt a' = s.byteAt a' := by
  unfold State.push; split <;> rfl
@[simp] theorem State.push_npc (w : Word) : (s.push w).npc = s.npc := by
  unfold State.push; split <;> rfl
@[simp] theorem State.push_keys (w : Word) : (s.push w).keys = s.keys := by
  unfold State.push; split <;> rfl
@[simp] theorem State.push_rnd (w : Word) : (s.push w).rnd = s.rnd := by
  unfold State.push; split <;> rfl

/-! `storeBytes` -/

@[simp] theorem State.storeBytes_v (a : Nat) (bs : List Byte) : (s.storeBytes a bs).v = s.v := by
  induction bs generalizing s a <;> simp [State.storeBytes, *]
@[simp] theorem State.storeBytes_i (a : Nat) (bs : List Byte) : (s.storeBytes a bs).i = s.i := by
  induction bs generalizing s a <;> simp [State.storeBytes, *]
@[simp] theorem State.storeBytes_pc (a : Nat) (bs : List Byte) : (s.storeBytes a bs).pc = s.pc := by
  induction bs generalizing s a <;> simp [State.storeBytes, *]
@[simp] theorem State.storeBytes_dt (a : Nat) (bs : List Byte) : (s.storeBytes a bs).dt = s.dt := by
  induction bs generalizing s a <;> simp [State.storeBytes, *]
@[simp] theorem State.storeBytes_st (a : Nat) (bs : List Byte) : (s.storeBytes a bs).st = s.st := by
  induction bs generalizing s a <;> simp [State.storeBytes, *]
@[simp] theorem State.storeBytes_stack (a : Nat) (bs : List Byte) : (s.storeBytes a bs).stack = s.stack := by
  induction bs generalizing s a <;> simp [State.storeBytes, *]
@[simp] theorem State.storeBytes_sp (a : Nat) (bs : List Byte) : (s.storeBytes a bs).sp = s.sp := by
  induction bs generalizing s a <;> simp [State.storeBytes, *]
@[simp] theorem State.storeBytes_fb (a : Nat) (bs : List Byte) : (s.storeBytes a bs).fb = s.fb := by
  induction bs generalizing s a <;> simp [State.storeBytes, *]
@[simp] theorem State.storeBytes_redraw (a : Nat) (bs : List Byte) : (s.storeBytes a bs).redraw = s.redraw := by
  induction bs generalizing s a <;> simp [State.storeBytes, *]
@[simp] theorem State.storeBytes_run (a : Nat) (bs : List Byte) : (s.storeBytes a bs).run = s.run := by
  induction bs generalizing s a <;> simp [State.storeBytes, *]
@[simp] theorem State.storeBytes_waitReg (a : Nat) (bs : List Byte) : (s.storeBytes a bs).waitReg = s.waitReg := by
  induction bs generalizing s a <;> simp [State.storeBytes, *]
@[simp] theorem State.storeBytes_fault (a : Nat) (bs : List Byte) : (s.storeBytes a bs).fault = s.fault := by
  induction bs generalizing s a <;> simp [State.storeBytes, *]
@[simp] theorem State.storeBytes_faultOp (a : Nat) (bs : List Byte) : (s.storeBytes a bs).faultOp = s.faultOp := by
  induction bs generalizing s a <;> simp [State.storeBytes, *]
@[simp] theorem State.storeBytes_font (a : Nat) (bs : List Byte) : (s.storeBytes a bs).font = s.font := by
  induction bs generalizing s a <;> simp [State.storeBytes, *]
@[simp] theorem State.storeBytes_keyIn (a : Nat) (bs : List Byte) : (s.storeBytes a bs).keyIn = s.keyIn := by
  induction bs generalizing s a <;> simp [State.storeBytes, *]
@[simp] theorem State.storeBytes_rndIn (a : Nat) (bs : List Byte) : (s.storeBytes a bs).rndIn = s.rndIn := by
  induction bs generalizing s a <;> simp [State.storeBytes, *]
@[simp] theorem State.storeBytes_reg (a : Nat) (bs : List Byte) (r' : Reg) : (s.storeBytes a bs).reg r' = s.reg r' := by
  induction bs generalizing s a <;> simp [State.storeBytes, *]
@[simp] theorem State.storeBytes_npc (a : Nat) (bs : List Byte) : (s.storeBytes a bs).npc = s.npc := by
  induction bs generalizing s a <;> simp [State.storeBytes, *]
@[simp] theorem State.storeBytes_keys (a : Nat) (bs : List Byte) : (s.storeBytes a bs).keys = s.keys := by
  induction bs generalizing s a <;> simp [State.storeBytes, *]
@[simp] theorem State.storeBytes_rnd (a : Nat) (bs : List Byte) : (s.storeBytes a bs).rnd = s.rnd := by
  induction bs generalizing s a <;> simp [State.storeBytes, *]
@[simp] theorem State.storeBytes_top (a : Nat) (bs : List Byte) : (s.storeBytes a bs).top = s.top := by
  induction bs generalizing s a <;> simp [State.storeBytes, *]

end Sys2Proof.Machine
end

