-- ==== Sys2Proof/Laws/Memory.lean ====
section
/-! SUPPORT. Memory: read after write, and every operation keeps the canonical form. -/

namespace Sys2Proof.Machine

/-! ### The listed cells -/

theorem Memory.lookup_put (m : Memory) (a b : Nat) (x : Byte) :
    (m.put a x).lookup b = if b = a then some x else m.lookup b := by
  induction m with
  | nil => simp [Memory.put, Memory.lookup, eq_comm]
  | cons c rest ih =>
    obtain ⟨k, w⟩ := c
    simp only [Memory.put]
    split_ifs with h1 h2 <;> simp only [Memory.lookup, ih] <;> split_ifs <;> first | rfl | omega

theorem Memory.lookup_unlist (m : Memory) (a b : Nat) :
    (m.unlist a).lookup b = if b = a then none else m.lookup b := by
  induction m with
  | nil => simp [Memory.unlist, Memory.lookup]
  | cons c rest ih =>
    obtain ⟨k, w⟩ := c
    simp only [Memory.unlist]
    split_ifs with h1 h2 <;> simp only [Memory.lookup, ih] <;> split_ifs <;> first | rfl | omega

/-- A read after a write: the byte written at that address, the old byte at any other. -/
theorem Memory.read_write (font : Vector Byte 80) (m : Memory) (a b : Nat) (x : Byte) :
    Memory.read font (Memory.write font m a x) b = if b = a then x else Memory.read font m b := by
  unfold Memory.write Memory.read
  split_ifs with h1 h2 h2 <;> simp [Memory.lookup_put, Memory.lookup_unlist, h1, h2]

/-! ### The canonical form -/

theorem Memory.mem_put {m : Memory} {a : Nat} {x : Byte} {c : Host.Cell} (h : c ∈ m.put a x) :
    c = (a, x) ∨ c ∈ m := by
  induction m with
  | nil => simpa [Memory.put] using h
  | cons d rest ih =>
    simp only [Memory.put] at h
    split_ifs at h <;> simp only [List.mem_cons] at h ⊢
    · tauto
    · tauto
    · rcases h with h | h
      · tauto
      · rcases ih h with h | h <;> tauto

theorem Memory.mem_unlist {m : Memory} {a : Nat} {c : Host.Cell} (h : c ∈ m.unlist a) : c ∈ m := by
  induction m with
  | nil => simp [Memory.unlist] at h
  | cons d rest ih =>
    simp only [Memory.unlist] at h
    split_ifs at h
    · exact List.mem_cons_of_mem _ (ih h)
    · rcases List.mem_cons.mp h with h | h
      · exact h ▸ List.mem_cons_self
      · exact List.mem_cons_of_mem _ (ih h)

theorem Memory.rising_put {m : Memory} (a : Nat) (x : Byte) (h : m.Pairwise (fun c d => c.1 < d.1)) :
    (m.put a x).Pairwise (fun c d => c.1 < d.1) := by
  induction m with
  | nil => simp [Memory.put]
  | cons d rest ih =>
    obtain ⟨k, w⟩ := d
    obtain ⟨hk, hr⟩ := List.pairwise_cons.mp h
    simp only [Memory.put]
    split_ifs with h1 h2
    · refine List.pairwise_cons.mpr ⟨fun c hc => ?_, h⟩
      rcases List.mem_cons.mp hc with rfl | hc
      · exact h1
      · exact Nat.lt_trans h1 (hk c hc)
    · exact List.pairwise_cons.mpr ⟨fun c hc => by simpa [h2] using hk c hc, hr⟩
    · refine List.pairwise_cons.mpr ⟨fun c hc => ?_, ih hr⟩
      rcases Memory.mem_put hc with rfl | hc
      · simp only; omega
      · exact hk c hc

theorem Memory.rising_unlist {m : Memory} (a : Nat) (h : m.Pairwise (fun c d => c.1 < d.1)) :
    (m.unlist a).Pairwise (fun c d => c.1 < d.1) := by
  induction m with
  | nil => simp [Memory.unlist]
  | cons d rest ih =>
    obtain ⟨hk, hr⟩ := List.pairwise_cons.mp h
    simp only [Memory.unlist]
    split_ifs
    · exact ih hr
    · exact List.pairwise_cons.mpr ⟨fun c hc => hk c (Memory.mem_unlist hc), ih hr⟩

/-- A write inside the address space keeps the canonical form. -/
theorem Memory.wf_write {font : Vector Byte 80} {m : Memory} {a : Nat} (x : Byte) (ha : a < Config.memSize)
    (h : Memory.wf font m) : Memory.wf font (Memory.write font m a x) := by
  unfold Memory.write
  split_ifs with hx
  · exact ⟨Memory.rising_unlist a h.1, fun c hc => h.2 c (Memory.mem_unlist hc)⟩
  · refine ⟨Memory.rising_put a x h.1, fun c hc => ?_⟩
    rcases Memory.mem_put hc with rfl | hc
    · exact ⟨ha, hx⟩
    · exact h.2 c hc

theorem Memory.wf_nil (font : Vector Byte 80) : Memory.wf font [] := by simp [Memory.wf]

/-! ### Bytes of the state -/

theorem State.byteAt_storeByte (s : State) (a b : Nat) (x : Byte) :
    (s.storeByte a x).byteAt b = if b = a then x else s.byteAt b :=
  Memory.read_write s.font s.mem a b x

/-- Storing bytes: an address of the range reads the byte stored there, every other one as before. -/
theorem State.byteAt_storeBytes (s : State) (a b : Nat) (bs : List Byte) :
    (s.storeBytes a bs).byteAt b = if h : a ≤ b ∧ b < a + bs.length then bs[b - a] else s.byteAt b := by
  induction bs generalizing s a with
  | nil => simp [State.storeBytes]
  | cons x rest ih =>
    simp only [State.storeBytes, ih, State.byteAt_storeByte, List.length_cons]
    by_cases h1 : a + 1 ≤ b ∧ b < a + 1 + rest.length
    · rw [dif_pos h1, dif_pos (by omega)]
      have : b - a = b - (a + 1) + 1 := by omega
      simp [this]
    · rw [dif_neg h1]
      by_cases h2 : b = a
      · subst h2; simp
      · rw [if_neg h2, dif_neg (by omega)]

/-- Each byte of a stored range reads back. -/
theorem State.byteAt_storeBytes_inside (s : State) (a k : Nat) (bs : List Byte) (h : k < bs.length) :
    (s.storeBytes a bs).byteAt (a + k) = bs[k] := by
  rw [State.byteAt_storeBytes, dif_pos (by omega)]
  simp

/-- Every byte outside a stored range reads as before. -/
theorem State.byteAt_storeBytes_outside (s : State) (a b : Nat) (bs : List Byte) (h : b < a ∨ a + bs.length ≤ b) :
    (s.storeBytes a bs).byteAt b = s.byteAt b := by
  rw [State.byteAt_storeBytes, dif_neg (by omega)]

/-- Storing a range inside the address space keeps the canonical form. -/
theorem State.wf_storeBytes (s : State) (a : Nat) (bs : List Byte) (ha : a + bs.length ≤ Config.memSize)
    (h : Memory.wf s.font s.mem) : Memory.wf s.font (s.storeBytes a bs).mem := by
  induction bs generalizing s a with
  | nil => exact h
  | cons x rest ih =>
    simp only [List.length_cons] at ha
    have := ih (s.storeByte a x) (a + 1) (by omega) (Memory.wf_write x (by omega) h)
    simpa [State.storeBytes] using this

theorem rangeInBounds_iff (base count : Nat) :
    rangeInBounds base count = true ↔ count = 0 ∨ base + count ≤ Config.memSize := by
  unfold rangeInBounds
  simp only [Bool.or_eq_true, beq_iff_eq, decide_eq_true_eq]
  omega

/-! ### Registers -/

theorem State.reg_setReg (s : State) (x r : Reg) (b : Byte) :
    (s.setReg x b).reg r = if r = x then b else s.reg r := by
  simp only [State.reg, State.setReg]
  by_cases h : r = x
  · subst h; simp
  · have : x.val ≠ r.val := fun e => h (Fin.ext e.symm)
    simp [h, this]

/-- The flag is written last: it wins when `x = 15` (R11). -/
theorem State.reg_setResultAndFlag (s : State) (x r : Reg) (b : Byte) (f : Bool) :
    (s.setResultAndFlag x b f).reg r = if r = vf then flagByte f else if r = x then b else s.reg r := by
  simp [State.setResultAndFlag, State.reg_setReg]

/-- A block load writes `V[0..x]` and keeps the registers above. -/
theorem State.reg_loadRegsUpTo (s : State) (x r : Reg) (a : Nat) :
    (s.loadRegsUpTo x a).reg r = if r ≤ x then s.byteAt (a + r.val) else s.reg r := by
  simp [State.reg, State.loadRegsUpTo]

theorem State.length_regsUpTo (s : State) (x : Reg) : (s.regsUpTo x).length = x.val + 1 := by
  simp [State.regsUpTo]

theorem State.getElem_regsUpTo (s : State) (x : Reg) (k : Nat) (h : k < (s.regsUpTo x).length) :
    (s.regsUpTo x)[k] = s.reg ⟨k, by rw [State.length_regsUpTo] at h; omega⟩ := by
  simp [State.regsUpTo, State.reg]

/-- The byte of register `k` after a store of `V[0..x]` at `a`. -/
theorem State.byteAt_storeRegs (s : State) (a : Nat) (x k : Reg) (h : k.val ≤ x.val) :
    (s.storeBytes a (s.regsUpTo x)).byteAt (a + k.val) = s.reg k := by
  rw [State.byteAt_storeBytes_inside _ _ _ _ (by rw [State.length_regsUpTo]; omega), State.getElem_regsUpTo]

theorem length_bcdDigits (b : Byte) : (bcdDigits b).length = 3 := rfl

/-! ### The call stack -/

theorem State.push_sp (s : State) (w : Word) (h : s.sp.val < 16) : (s.push w).sp.val = s.sp.val + 1 := by
  simp [State.push, h]

theorem State.push_stack (s : State) (w : Word) (h : s.sp.val < 16) :
    (s.push w).stack = s.stack.set s.sp.val w h := by
  simp [State.push, h]

/-- What a push leaves on top is what was pushed. -/
theorem State.push_top (s : State) (w : Word) (h : s.sp.val < 16) : (s.push w).top = w := by
  simp [State.top, State.push, h]

end Sys2Proof.Machine
end

