-- ==== Sys2Proof/Laws/PerInstr.lean ====
section
/-! SUPPORT. Statements about every instruction, one lemma per constructor. Family `RowMatch`: the word of an
instruction lies in the row that R64 gives the instruction. -/

namespace Sys2Proof.Laws.RowMatch

/-- `encode i & mask = match` for the row of `i`. -/
def Statement (i : Instr) : Prop := encode i &&& (rowOf i).1 = (rowOf i).2

theorem cls : Statement .cls := by
  unfold Statement; decide

theorem ret : Statement .ret := by
  unfold Statement; decide

theorem sys (nnn : Addr) : Statement (.sys nnn) := by
  have h := encNnn_toNat 0x0 (by omega) nnn
  apply BitVec.eq_of_toNat_eq
  simp only [encode, rowOf, toNat_and_F000, h, BitVec.toNat_ofNat]
  have := nnn.isLt; omega

theorem jp (nnn : Addr) : Statement (.jp nnn) := by
  have h := encNnn_toNat 0x1 (by omega) nnn
  apply BitVec.eq_of_toNat_eq
  simp only [encode, rowOf, toNat_and_F000, h, BitVec.toNat_ofNat]
  have := nnn.isLt; omega

theorem call (nnn : Addr) : Statement (.call nnn) := by
  have h := encNnn_toNat 0x2 (by omega) nnn
  apply BitVec.eq_of_toNat_eq
  simp only [encode, rowOf, toNat_and_F000, h, BitVec.toNat_ofNat]
  have := nnn.isLt; omega

theorem seVxKk (x : Reg) (kk : Byte) : Statement (.seVxKk x kk) := by
  have h := encXkk_toNat 0x3 (by omega) x kk
  apply BitVec.eq_of_toNat_eq
  simp only [encode, rowOf, toNat_and_F000, h, BitVec.toNat_ofNat]
  have := kk.isLt; omega

theorem sneVxKk (x : Reg) (kk : Byte) : Statement (.sneVxKk x kk) := by
  have h := encXkk_toNat 0x4 (by omega) x kk
  apply BitVec.eq_of_toNat_eq
  simp only [encode, rowOf, toNat_and_F000, h, BitVec.toNat_ofNat]
  have := kk.isLt; omega

theorem seVxVy (x y : Reg) : Statement (.seVxVy x y) := by
  have h := encXy_toNat 0x5 (by omega) x y 0x0 (by omega)
  apply BitVec.eq_of_toNat_eq
  simp only [encode, rowOf, toNat_and_F00F, h, BitVec.toNat_ofNat]
  omega

theorem ldVxKk (x : Reg) (kk : Byte) : Statement (.ldVxKk x kk) := by
  have h := encXkk_toNat 0x6 (by omega) x kk
  apply BitVec.eq_of_toNat_eq
  simp only [encode, rowOf, toNat_and_F000, h, BitVec.toNat_ofNat]
  have := kk.isLt; omega

theorem addVxKk (x : Reg) (kk : Byte) : Statement (.addVxKk x kk) := by
  have h := encXkk_toNat 0x7 (by omega) x kk
  apply BitVec.eq_of_toNat_eq
  simp only [encode, rowOf, toNat_and_F000, h, BitVec.toNat_ofNat]
  have := kk.isLt; omega

theorem ldVxVy (x y : Reg) : Statement (.ldVxVy x y) := by
  have h := encXy_toNat 0x8 (by omega) x y 0x0 (by omega)
  apply BitVec.eq_of_toNat_eq
  simp only [encode, rowOf, toNat_and_F00F, h, BitVec.toNat_ofNat]
  omega

theorem orVxVy (x y : Reg) : Statement (.orVxVy x y) := by
  have h := encXy_toNat 0x8 (by omega) x y 0x1 (by omega)
  apply BitVec.eq_of_toNat_eq
  simp only [encode, rowOf, toNat_and_F00F, h, BitVec.toNat_ofNat]
  omega

theorem andVxVy (x y : Reg) : Statement (.andVxVy x y) := by
  have h := encXy_toNat 0x8 (by omega) x y 0x2 (by omega)
  apply BitVec.eq_of_toNat_eq
  simp only [encode, rowOf, toNat_and_F00F, h, BitVec.toNat_ofNat]
  omega

theorem xorVxVy (x y : Reg) : Statement (.xorVxVy x y) := by
  have h := encXy_toNat 0x8 (by omega) x y 0x3 (by omega)
  apply BitVec.eq_of_toNat_eq
  simp only [encode, rowOf, toNat_and_F00F, h, BitVec.toNat_ofNat]
  omega

theorem addVxVy (x y : Reg) : Statement (.addVxVy x y) := by
  have h := encXy_toNat 0x8 (by omega) x y 0x4 (by omega)
  apply BitVec.eq_of_toNat_eq
  simp only [encode, rowOf, toNat_and_F00F, h, BitVec.toNat_ofNat]
  omega

theorem subVxVy (x y : Reg) : Statement (.subVxVy x y) := by
  have h := encXy_toNat 0x8 (by omega) x y 0x5 (by omega)
  apply BitVec.eq_of_toNat_eq
  simp only [encode, rowOf, toNat_and_F00F, h, BitVec.toNat_ofNat]
  omega

theorem shrVx (x y : Reg) : Statement (.shrVx x y) := by
  have h := encXy_toNat 0x8 (by omega) x y 0x6 (by omega)
  apply BitVec.eq_of_toNat_eq
  simp only [encode, rowOf, toNat_and_F00F, h, BitVec.toNat_ofNat]
  omega

theorem subnVxVy (x y : Reg) : Statement (.subnVxVy x y) := by
  have h := encXy_toNat 0x8 (by omega) x y 0x7 (by omega)
  apply BitVec.eq_of_toNat_eq
  simp only [encode, rowOf, toNat_and_F00F, h, BitVec.toNat_ofNat]
  omega

theorem shlVx (x y : Reg) : Statement (.shlVx x y) := by
  have h := encXy_toNat 0x8 (by omega) x y 0xE (by omega)
  apply BitVec.eq_of_toNat_eq
  simp only [encode, rowOf, toNat_and_F00F, h, BitVec.toNat_ofNat]
  omega

theorem sneVxVy (x y : Reg) : Statement (.sneVxVy x y) := by
  have h := encXy_toNat 0x9 (by omega) x y 0x0 (by omega)
  apply BitVec.eq_of_toNat_eq
  simp only [encode, rowOf, toNat_and_F00F, h, BitVec.toNat_ofNat]
  omega

theorem ldIAddr (nnn : Addr) : Statement (.ldIAddr nnn) := by
  have h := encNnn_toNat 0xA (by omega) nnn
  apply BitVec.eq_of_toNat_eq
  simp only [encode, rowOf, toNat_and_F000, h, BitVec.toNat_ofNat]
  have := nnn.isLt; omega

theorem jpV0Addr (nnn : Addr) : Statement (.jpV0Addr nnn) := by
  have h := encNnn_toNat 0xB (by omega) nnn
  apply BitVec.eq_of_toNat_eq
  simp only [encode, rowOf, toNat_and_F000, h, BitVec.toNat_ofNat]
  have := nnn.isLt; omega

theorem rndVxKk (x : Reg) (kk : Byte) : Statement (.rndVxKk x kk) := by
  have h := encXkk_toNat 0xC (by omega) x kk
  apply BitVec.eq_of_toNat_eq
  simp only [encode, rowOf, toNat_and_F000, h, BitVec.toNat_ofNat]
  have := kk.isLt; omega

theorem drwVxVyN (x y : Reg) (n : Fin 16) : Statement (.drwVxVyN x y n) := by
  have h := encXy_toNat 0xD (by omega) x y n.val (by omega)
  apply BitVec.eq_of_toNat_eq
  simp only [encode, rowOf, toNat_and_F000, h, BitVec.toNat_ofNat]
  omega

theorem skpVx (x : Reg) : Statement (.skpVx x) := by
  have h := encX_toNat 0xE (by omega) x 0x9E (by omega)
  apply BitVec.eq_of_toNat_eq
  simp only [encode, rowOf, toNat_and_F0FF, h, BitVec.toNat_ofNat]
  omega

theorem sknpVx (x : Reg) : Statement (.sknpVx x) := by
  have h := encX_toNat 0xE (by omega) x 0xA1 (by omega)
  apply BitVec.eq_of_toNat_eq
  simp only [encode, rowOf, toNat_and_F0FF, h, BitVec.toNat_ofNat]
  omega

theorem ldVxDt (x : Reg) : Statement (.ldVxDt x) := by
  have h := encX_toNat 0xF (by omega) x 0x07 (by omega)
  apply BitVec.eq_of_toNat_eq
  simp only [encode, rowOf, toNat_and_F0FF, h, BitVec.toNat_ofNat]
  omega

theorem ldVxK (x : Reg) : Statement (.ldVxK x) := by
  have h := encX_toNat 0xF (by omega) x 0x0A (by omega)
  apply BitVec.eq_of_toNat_eq
  simp only [encode, rowOf, toNat_and_F0FF, h, BitVec.toNat_ofNat]
  omega

theorem ldDtVx (x : Reg) : Statement (.ldDtVx x) := by
  have h := encX_toNat 0xF (by omega) x 0x15 (by omega)
  apply BitVec.eq_of_toNat_eq
  simp only [encode, rowOf, toNat_and_F0FF, h, BitVec.toNat_ofNat]
  omega

theorem ldStVx (x : Reg) : Statement (.ldStVx x) := by
  have h := encX_toNat 0xF (by omega) x 0x18 (by omega)
  apply BitVec.eq_of_toNat_eq
  simp only [encode, rowOf, toNat_and_F0FF, h, BitVec.toNat_ofNat]
  omega

theorem addIVx (x : Reg) : Statement (.addIVx x) := by
  have h := encX_toNat 0xF (by omega) x 0x1E (by omega)
  apply BitVec.eq_of_toNat_eq
  simp only [encode, rowOf, toNat_and_F0FF, h, BitVec.toNat_ofNat]
  omega

theorem ldFVx (x : Reg) : Statement (.ldFVx x) := by
  have h := encX_toNat 0xF (by omega) x 0x29 (by omega)
  apply BitVec.eq_of_toNat_eq
  simp only [encode, rowOf, toNat_and_F0FF, h, BitVec.toNat_ofNat]
  omega

theorem ldBVx (x : Reg) : Statement (.ldBVx x) := by
  have h := encX_toNat 0xF (by omega) x 0x33 (by omega)
  apply BitVec.eq_of_toNat_eq
  simp only [encode, rowOf, toNat_and_F0FF, h, BitVec.toNat_ofNat]
  omega

theorem ldMemVx (x : Reg) : Statement (.ldMemVx x) := by
  have h := encX_toNat 0xF (by omega) x 0x55 (by omega)
  apply BitVec.eq_of_toNat_eq
  simp only [encode, rowOf, toNat_and_F0FF, h, BitVec.toNat_ofNat]
  omega

theorem ldVxMem (x : Reg) : Statement (.ldVxMem x) := by
  have h := encX_toNat 0xF (by omega) x 0x65 (by omega)
  apply BitVec.eq_of_toNat_eq
  simp only [encode, rowOf, toNat_and_F0FF, h, BitVec.toNat_ofNat]
  omega

end Sys2Proof.Laws.RowMatch
end

