-- ==== Sys2Proof/Laws/Sprite.lean ====
section
/-! SUPPORT. The sprite engine: a pixel after a toggle, after a row, after a sprite; the collision. -/

namespace Sys2Proof.Machine

theorem pixelIndex_lt (column row : Nat) : pixelIndex column row < 2048 := by
  unfold pixelIndex; omega

theorem getLsbD_one_shiftLeft (a b : Nat) (ha : a < 64) : (1#64 <<< a).getLsbD b = decide (b = a) := by
  rw [← BitVec.twoPow_eq, BitVec.getLsbD_twoPow]
  simp [ha, eq_comm]

/-- A toggle flips its own pixel and no other. -/
theorem Framebuffer.pixel_toggle (fb : Framebuffer) (p q : Nat) (hp : p < 2048) :
    (fb.toggle p).pixel q = (fb.pixel q ^^ decide (q = p)) := by
  have hp' : p / 64 < 32 := by omega
  unfold Framebuffer.toggle Framebuffer.pixel
  rw [dif_pos hp']
  by_cases hq : q / 64 < 32
  · simp only [hq, dif_pos]
    by_cases hrow : q / 64 = p / 64
    · have hcol : (q % 64 = p % 64) ↔ (q = p) := by omega
      simp only [hrow, Vector.getElem_set_self, BitVec.getLsbD_xor,
        getLsbD_one_shiftLeft _ _ (Nat.mod_lt p (by decide : 0 < 64)), hcol]
    · have hne : q ≠ p := fun h => hrow (by rw [h])
      rw [Vector.getElem_set_ne _ _ (fun h => hrow h.symm)]
      simp [hne]
  · have hne : q ≠ p := fun h => hq (by rw [h]; exact hp')
    simp [hq, hne]

theorem Framebuffer.pixel_blankScreen (p : Nat) : blankScreen.pixel p = false := by
  unfold Framebuffer.pixel blankScreen
  split <;> simp

/-- Bit `7 - dx` of the row is what column `dx` shows (R152). -/
theorem spriteBit_eq (b : Byte) (dx : Nat) (h : dx < 8) : spriteBit b dx = b.getLsbD (7 - dx) := by
  revert b
  interval_cases dx <;> decide

/-! ### Plotting a list of pixels -/

/-- Plot pixels one after the other. -/
def plotAll (ps : List Nat) (drawn : Framebuffer × Bool) : Framebuffer × Bool :=
  ps.foldl (fun acc p => plot p acc) drawn

/-- Pixels plotted once each: exactly they are flipped, and a collision is one that was set before. -/
theorem plotAll_spec (ps : List Nat) (drawn : Framebuffer × Bool) (hlt : ∀ p ∈ ps, p < 2048) (hnd : ps.Nodup) :
    (∀ q, (plotAll ps drawn).1.pixel q = (drawn.1.pixel q ^^ decide (q ∈ ps))) ∧
    ((plotAll ps drawn).2 = true ↔ drawn.2 = true ∨ ∃ p ∈ ps, drawn.1.pixel p = true) := by
  induction ps generalizing drawn with
  | nil => simp [plotAll]
  | cons p rest ih =>
    obtain ⟨hp, hrest⟩ := List.nodup_cons.mp hnd
    have hpl : p < 2048 := hlt p List.mem_cons_self
    obtain ⟨ih1, ih2⟩ := ih (plot p drawn) (fun q hq => hlt q (List.mem_cons_of_mem _ hq)) hrest
    have step : plotAll (p :: rest) drawn = plotAll rest (plot p drawn) := rfl
    rw [step]
    constructor
    · intro q
      rw [ih1, plot, Framebuffer.pixel_toggle _ _ _ hpl]
      by_cases h : q = p
      · subst h; simp [hp]
      · simp [h]
    · rw [ih2]
      have hkeep : ∀ q ∈ rest, (plot p drawn).1.pixel q = drawn.1.pixel q := by
        intro q hq
        have : q ≠ p := fun h => hp (h ▸ hq)
        simp [plot, Framebuffer.pixel_toggle _ _ _ hpl, this]
      constructor
      · rintro (h | ⟨q, hq, h⟩)
        · simp only [plot, Bool.or_eq_true] at h
          rcases h with h | h
          · exact .inl h
          · exact .inr ⟨p, List.mem_cons_self, h⟩
        · exact .inr ⟨q, List.mem_cons_of_mem _ hq, by rw [← hkeep q hq]; exact h⟩
      · rintro (h | ⟨q, hq, h⟩)
        · exact .inl (by simp [plot, h])
        · rcases List.mem_cons.mp hq with rfl | hq
          · exact .inl (by simp [plot, h])
          · exact .inr ⟨q, hq, by rw [hkeep q hq]; exact h⟩

/-- The pixels the 1 bits of one row land on. -/
def rowPixels (b : Byte) (column row : Nat) : List Nat :=
  ((List.range 8).filter (spriteBit b)).map fun dx => pixelIndex (column + dx) row

/-- The pixels the 1 bits of a sprite land on. -/
def spritePixels (column : Nat) : List Byte → Nat → List Nat
  | [], _ => []
  | b :: rest, row => rowPixels b column row ++ spritePixels column rest (row + 1)

theorem drawRow_eq (b : Byte) (column row : Nat) (drawn : Framebuffer × Bool) :
    drawRow b column row drawn = plotAll (rowPixels b column row) drawn := by
  simp [drawRow, plotAll, rowPixels, List.foldl_map, List.foldl_filter]

theorem drawRows_eq (column : Nat) (rows : List Byte) (row : Nat) (drawn : Framebuffer × Bool) :
    drawRows column rows row drawn = plotAll (spritePixels column rows row) drawn := by
  induction rows generalizing row drawn with
  | nil => rfl
  | cons b rest ih => simp [drawRows, spritePixels, drawRow_eq, ih, plotAll, List.foldl_append]

theorem mem_rowPixels {b : Byte} {column row p : Nat} :
    p ∈ rowPixels b column row ↔ ∃ dx, dx < 8 ∧ b.getLsbD (7 - dx) = true ∧ p = pixelIndex (column + dx) row := by
  simp only [rowPixels, List.mem_map, List.mem_filter, List.mem_range]
  constructor
  · rintro ⟨dx, ⟨h, hb⟩, rfl⟩
    exact ⟨dx, h, by rwa [← spriteBit_eq b dx h], rfl⟩
  · rintro ⟨dx, h, hb, rfl⟩
    exact ⟨dx, ⟨h, by rwa [spriteBit_eq b dx h]⟩, rfl⟩

theorem mem_spritePixels {column : Nat} {rows : List Byte} {row p : Nat} :
    p ∈ spritePixels column rows row ↔ ∃ dy dx, ∃ h : dy < rows.length, dx < 8 ∧
      rows[dy].getLsbD (7 - dx) = true ∧ p = pixelIndex (column + dx) (row + dy) := by
  induction rows generalizing row with
  | nil => simp [spritePixels]
  | cons b rest ih =>
    simp only [spritePixels, List.mem_append, mem_rowPixels, ih]
    constructor
    · rintro (⟨dx, h, hb, rfl⟩ | ⟨dy, dx, hd, h, hb, rfl⟩)
      · exact ⟨0, dx, by simp, h, hb, rfl⟩
      · exact ⟨dy + 1, dx, by simpa using hd, h, by simpa using hb, by rw [Nat.add_assoc, Nat.add_comm 1]⟩
    · rintro ⟨dy, dx, hd, h, hb, rfl⟩
      cases dy with
      | zero => exact .inl ⟨dx, h, hb, rfl⟩
      | succ k =>
        exact .inr ⟨k, dx, by simpa using hd, h, by simpa using hb, by rw [Nat.add_assoc, Nat.add_comm 1]⟩

theorem nodup_rowPixels (b : Byte) (column row : Nat) : (rowPixels b column row).Nodup := by
  refine List.Nodup.map_on ?_ (List.nodup_range.filter _)
  intro x hx y hy h
  have hx' : x < 8 := List.mem_range.mp (List.mem_filter.mp hx).1
  have hy' : y < 8 := List.mem_range.mp (List.mem_filter.mp hy).1
  unfold pixelIndex at h
  omega

/-- A sprite of at most 32 rows never touches a pixel twice (R151). -/
theorem nodup_spritePixels (column : Nat) (rows : List Byte) (row : Nat) (h : rows.length ≤ 32) :
    (spritePixels column rows row).Nodup := by
  induction rows generalizing row with
  | nil => simp [spritePixels]
  | cons b rest ih =>
    simp only [List.length_cons] at h
    refine List.nodup_append.mpr ⟨nodup_rowPixels b column row, ih (row + 1) (by omega), ?_⟩
    rintro p hp q hq rfl
    obtain ⟨dx, h1, -, e1⟩ := mem_rowPixels.mp hp
    obtain ⟨dy, dx', hd, h2, -, e2⟩ := mem_spritePixels.mp hq
    rw [e1] at e2
    unfold pixelIndex at e2
    omega

/-- What drawing a sprite of at most 32 rows does: exactly the covered pixels are flipped, and there is a collision
exactly when a covered pixel was set before. -/
theorem drawSprite_spec (fb : Framebuffer) (column row : Nat) (rows : List Byte) (h : rows.length ≤ 32) :
    (∀ q, (drawSprite fb column row rows).1.pixel q = (fb.pixel q ^^ decide (q ∈ spritePixels column rows row))) ∧
    ((drawSprite fb column row rows).2 = true ↔ ∃ p ∈ spritePixels column rows row, fb.pixel p = true) := by
  unfold drawSprite
  rw [drawRows_eq]
  have hlt : ∀ p ∈ spritePixels column rows row, p < 2048 := by
    intro p hp
    obtain ⟨dy, dx, -, -, -, rfl⟩ := mem_spritePixels.mp hp
    exact pixelIndex_lt _ _
  simpa using plotAll_spec _ (fb, false) hlt (nodup_spritePixels column rows row h)

/-- The pixels `DRW` plots are those its sprite covers (R151, R152). -/
theorem mem_spritePixels_drawn (s : State) (x y : Reg) (n : Fin 16) (p : Nat) :
    p ∈ spritePixels (s.reg x).toNat (s.bytesAt s.i.toNat n.val) (s.reg y).toNat ↔ SpriteCovers s x y n p := by
  rw [mem_spritePixels]
  simp only [State.bytesAt, List.length_map, List.length_range, List.getElem_map, List.getElem_range]
  constructor
  · rintro ⟨dy, dx, h, hx, hb, e⟩
    exact ⟨dy, dx, h, hx, hb, e⟩
  · rintro ⟨dy, dx, h, hx, hb, e⟩
    exact ⟨dy, dx, h, hx, hb, e⟩

end Sys2Proof.Machine
end

