-- ==== Sys2Proof/Tests/Slice0.lean ====
section
/-! SUPPORT. Tests: the check of well-formedness, the decoder on written-out words, single steps with the results of
95_test_vectors.md (the vector's number stands in each docstring), and a witness of the hypotheses of every statement
that has some. -/

namespace Sys2Proof.Tests

open Sys2Proof Sys2Proof.Machine

-- One theorem after the other: elaborated all at once, their threads' stacks pass the memory limit.
set_option Elab.async false

/-! ### Helpers -/

/-- The state after reset with a word at 0x200, as the vectors' conventions have it. -/
def start (op : Nat) : State := State.reset.withFetchWord 16 op

/-- The state after one step. -/
def after (s : State) : State :=
  match step s with
  | .next t => t
  | .fault _ => s
  | .refused _ => s

/-- The session after an operation of the host. -/
def afterHost (o : Operation) (r : Session) : Session :=
  match apply o r with
  | .next (r', _) => r'
  | .fault _ => r
  | .refused _ => r

/-- The state after an operation of the host, on a session in which a load may still be applied. -/
def afterOp (o : Operation) (s : State) : State := (afterHost o ⟨s, true⟩).core

/-- The state that executing an instruction leaves. -/
def afterExec (i : Instr) (s : State) : State :=
  match exec i s with
  | .next t => t
  | .fault _ => s
  | .refused _ => s

/-! ### Well-formedness -/

/-- R65: `00E0` is `CLS`, not `SYS 0x0E0`. -/
theorem test_wellFormed_refuses_sys_0E0 : (Instr.sys 0x0E0#12).wellFormed = false := by decide

/-- R65: `00EE` is `RET`, not `SYS 0x0EE`. -/
theorem test_wellFormed_refuses_sys_0EE : (Instr.sys 0x0EE#12).wellFormed = false := by decide

theorem test_wellFormed_accepts_neighbours :
    (Instr.sys 0x0E1#12).wellFormed = true ∧ (Instr.sys 0x0EF#12).wellFormed = true := by decide

/-! ### Decoding: words written out from the patterns of R64, bit by bit -/

theorem test_decode_display :
    decode 0b0000_0000_1110_0000#16 = .ok .cls ∧
    decode 0b1101_0111_1010_1100#16 = .ok (.drwVxVyN 7 10 12) := by decide

theorem test_decode_control :
    decode 0b0000_0000_1110_1110#16 = .ok .ret ∧ decode 0b0000_0010_0011_0100#16 = .ok (.sys 0x234#12) ∧
    decode 0b0001_1010_1011_1100#16 = .ok (.jp 0xABC#12) ∧ decode 0b0010_0011_0000_0100#16 = .ok (.call 0x304#12) ∧
    decode 0b1011_1111_0000_0001#16 = .ok (.jpV0Addr 0xF01#12) := by decide

theorem test_decode_skips :
    decode 0b0011_1010_0000_0101#16 = .ok (.seVxKk 10 0x05#8) ∧
    decode 0b0100_0011_1111_0000#16 = .ok (.sneVxKk 3 0xF0#8) ∧
    decode 0b0101_0001_0010_0000#16 = .ok (.seVxVy 1 2) ∧ decode 0b1001_1110_0011_0000#16 = .ok (.sneVxVy 14 3) ∧
    decode 0b1110_0101_1001_1110#16 = .ok (.skpVx 5) ∧ decode 0b1110_1111_1010_0001#16 = .ok (.sknpVx 15) := by decide

theorem test_decode_alu :
    decode 0b0110_1010_0000_0101#16 = .ok (.ldVxKk 10 0x05#8) ∧
    decode 0b0111_0000_1111_1110#16 = .ok (.addVxKk 0 0xFE#8) ∧
    decode 0b1100_0100_0011_1100#16 = .ok (.rndVxKk 4 0x3C#8) ∧
    decode 0b1000_0001_0010_0000#16 = .ok (.ldVxVy 1 2) ∧ decode 0b1000_0001_0010_0001#16 = .ok (.orVxVy 1 2) ∧
    decode 0b1000_0001_0010_0010#16 = .ok (.andVxVy 1 2) ∧ decode 0b1000_0001_0010_0011#16 = .ok (.xorVxVy 1 2) := by
  decide

theorem test_decode_flag_writers :
    decode 0b1000_0001_0010_0100#16 = .ok (.addVxVy 1 2) ∧ decode 0b1000_0001_0010_0101#16 = .ok (.subVxVy 1 2) ∧
    decode 0b1000_0001_0010_0110#16 = .ok (.shrVx 1 2) ∧ decode 0b1000_0001_0010_0111#16 = .ok (.subnVxVy 1 2) ∧
    decode 0b1000_0001_0010_1110#16 = .ok (.shlVx 1 2) := by decide

theorem test_decode_index_memory :
    decode 0b1010_0001_0010_0011#16 = .ok (.ldIAddr 0x123#12) ∧ decode 0b1111_0001_0001_1110#16 = .ok (.addIVx 1) ∧
    decode 0b1111_0010_0010_1001#16 = .ok (.ldFVx 2) ∧ decode 0b1111_0011_0011_0011#16 = .ok (.ldBVx 3) ∧
    decode 0b1111_0100_0101_0101#16 = .ok (.ldMemVx 4) ∧ decode 0b1111_0101_0110_0101#16 = .ok (.ldVxMem 5) := by
  decide

theorem test_decode_timers_keys :
    decode 0b1111_0110_0000_0111#16 = .ok (.ldVxDt 6) ∧ decode 0b1111_0101_0000_1010#16 = .ok (.ldVxK 5) ∧
    decode 0b1111_0101_0001_0101#16 = .ok (.ldDtVx 5) ∧ decode 0b1111_0010_0001_1000#16 = .ok (.ldStVx 2) := by decide

/-- Family 30: illegal words of every group that has some. -/
theorem test_decode_illegal :
    decode 0x512F#16 = .error (.invalidOpcode 0x512F#16) ∧ decode 0x8128#16 = .error (.invalidOpcode 0x8128#16) ∧
    decode 0x9121#16 = .error (.invalidOpcode 0x9121#16) ∧ decode 0xE1A2#16 = .error (.invalidOpcode 0xE1A2#16) ∧
    decode 0xF156#16 = .error (.invalidOpcode 0xF156#16) := by decide

/-- R40: the byte at the lower address is the high one; the rest of the bytes follows. -/
theorem test_decode_bytes :
    decodeBytes [0x12#8, 0x34#8, 0x56#8] = .ok (.jp 0x234#12, [0x56#8]) ∧ decodeBytes [0x12#8] = .error .tooShort ∧
    decodeTableWord 16 0x1234 = some (.jp 0x234#12) := by decide

/-- R62, R64: words written out from the formats. -/
theorem test_encode :
    encode (.drwVxVyN 0 1 2) = 0xD012#16 ∧ encode (.shlVx 1 15) = 0x81FE#16 ∧ encode (.ldVxMem 15) = 0xFF65#16 ∧
    encode (.sys 0xFFF#12) = 0x0FFF#16 := by decide

/-! ### Single steps: 95_test_vectors.md -/

/-- 40.1, 40.2: the fetch at 4094 succeeds, the next one faults with `PC` unchanged. -/
theorem test_fetch_edge :
    let s := after ({ State.reset with pc := 0xFFE#16 }.withFetchWord 16 0x6A05)
    s.reg 10 = 0x05 ∧ s.pc = 0x1000#16 ∧ s.stepResult = .ok ∧
      (after s).stepResult = .fault .outOfBounds ∧ (after s).pc = 0x1000#16 := by decide +kernel

/-- 40.4: no alignment. -/
theorem test_fetch_odd :
    let s := after ({ State.reset with pc := 0x201#16 }.withFetchWord 16 0x6B07)
    s.reg 11 = 0x07 ∧ s.pc = 0x203#16 := by decide +kernel

/-- Family 30: an illegal word. -/
theorem test_step_illegal :
    let s := after (start 0xF000)
    s.run = .faulted ∧ s.fault.code = 1 ∧ s.faultOp = 0xF000#16 ∧ s.pc = 0x200#16 := by decide +kernel

/-- 41.1. -/
theorem test_sys : (after (start 0x0234)).pc = 0x202#16 := by decide +kernel

/-- 41.2, 41.3. -/
theorem test_jp : after (start 0x1200) = start 0x1200 ∧ (after (start 0x1FFF)).pc = 0xFFF#16 := by decide +kernel

/-- 41.5. -/
theorem test_call :
    let s := after { start 0x2300 with sp := 15 }
    s.stack[15] = 0x202#16 ∧ s.sp = 16 ∧ s.pc = 0x300#16 := by decide +kernel

/-- 41.6. -/
theorem test_call_overflow :
    let s := after { start 0x2300 with sp := 16 }
    s.stepResult = .fault .stackOverflow ∧ s.sp = 16 ∧ s.pc = 0x200#16 := by decide +kernel

/-- 41.7: the popped slot keeps its contents. -/
theorem test_ret :
    let s := after ({ State.reset with pc := 0x210#16, sp := 1, stack := State.reset.stack.set 0 0x202#16 }.withFetchWord
      16 0x00EE)
    s.pc = 0x202#16 ∧ s.sp = 0 ∧ s.stack[0] = 0x202#16 := by decide +kernel

/-- 41.8, S2. -/
theorem test_ret_underflow :
    let s := after (start 0x00EE)
    s.run = .faulted ∧ s.fault.code = 3 ∧ s.pc = 0x200#16 ∧ s.faultOp = 0 := by decide +kernel

/-- 41.10: the target is not reduced to 12 bits. -/
theorem test_jpV0 : (after ((start 0xBFFF).setReg 0 0xFF)).pc = 0x10FE#16 := by decide +kernel

/-- 42.1, 42.2. -/
theorem test_se_imm :
    (after ((start 0x3A05).setReg 10 5)).pc = 0x204#16 ∧ (after ((start 0x3A05).setReg 10 4)).pc = 0x202#16 := by
  decide +kernel

/-- 42.3, 42.4. -/
theorem test_sne_imm :
    (after ((start 0x4A05).setReg 10 5)).pc = 0x202#16 ∧ (after ((start 0x4A05).setReg 10 4)).pc = 0x204#16 := by
  decide +kernel

/-- 42.5, 42.6. -/
theorem test_se_reg :
    (after (((start 0x5120).setReg 1 7).setReg 2 7)).pc = 0x204#16 ∧
    (after (((start 0x5120).setReg 1 7).setReg 2 8)).pc = 0x202#16 := by decide +kernel

/-- 42.8, 42.9. -/
theorem test_sne_reg :
    (after (((start 0x9120).setReg 1 7).setReg 2 8)).pc = 0x204#16 ∧ (after (start 0x9330)).pc = 0x202#16 := by
  decide +kernel

/-- 42.10, 42.11. -/
theorem test_skp :
    (afterOp (.step 0x0080#16 0) ((start 0xE59E).setReg 5 7)).pc = 0x204#16 ∧
    (afterOp (.step 0x0000#16 0) ((start 0xE59E).setReg 5 7)).pc = 0x202#16 := by decide +kernel

/-- 42.12, 42.13. -/
theorem test_sknp :
    (afterOp (.step 0x0080#16 0) ((start 0xE5A1).setReg 5 7)).pc = 0x202#16 ∧
    (afterOp (.step 0x0000#16 0) ((start 0xE5A1).setReg 5 7)).pc = 0x204#16 := by decide +kernel

/-- 42.14, 42.15. -/
theorem test_key_index_outside :
    (after ((start 0xE59E).setReg 5 0x10)).stepResult = .fault .outOfBounds ∧
    (after ((start 0xE5A1).setReg 5 0xFF)).stepResult = .fault .outOfBounds := by decide +kernel

/-- 43.1, 43.2. -/
theorem test_ld_imm :
    (after (start 0x6A05)).reg 10 = 0x05 ∧ (after ((start 0x6F00).setReg 15 1)).reg 15 = 0 := by decide +kernel

/-- 43.3, 43.4: no flag. -/
theorem test_add_imm :
    (after ((start 0x7002).setReg 0 0xFF)).reg 0 = 0x01 ∧ (after ((start 0x7002).setReg 0 0xFF)).reg 15 = 0 ∧
    (after ((start 0x7F01).setReg 15 0xFF)).reg 15 = 0x00 := by decide +kernel

/-- 43.5. -/
theorem test_ld_reg : (after ((start 0x8120).setReg 2 0x3C)).reg 1 = 0x3C := by decide +kernel

/-- 43.6, 43.7, 43.8: the logic leaves `VF` alone. -/
theorem test_logic :
    let s (op : Nat) := after ((((start op).setReg 1 0x0C).setReg 2 0x0A).setReg 15 1)
    (s 0x8121).reg 1 = 0x0E ∧ (s 0x8122).reg 1 = 0x08 ∧ (s 0x8123).reg 1 = 0x06 ∧ (s 0x8121).reg 15 = 1 ∧
      (s 0x8123).reg 15 = 1 := by decide +kernel

/-- 43.10, 43.11: the sum 255 is no carry. -/
theorem test_add_carry :
    let s := after (((start 0x8124).setReg 1 0xFF).setReg 2 0x01)
    let t := after ((((start 0x8124).setReg 1 0x80).setReg 2 0x7F).setReg 15 1)
    s.reg 1 = 0x00 ∧ s.reg 15 = 0x01 ∧ t.reg 1 = 0xFF ∧ t.reg 15 = 0x00 := by decide +kernel

/-- 43.13, 43.14: `VF` as destination and as operand. -/
theorem test_add_vf :
    let s := after (((start 0x8F14).setReg 15 0xF0).setReg 1 0x20)
    let t := after (((start 0x81F4).setReg 1 0x01).setReg 15 0xFF)
    s.reg 15 = 0x01 ∧ t.reg 1 = 0x00 ∧ t.reg 15 = 0x01 := by decide +kernel

/-- 43.15, 43.16: equal operands are no borrow. -/
theorem test_sub :
    let s := after (((start 0x8125).setReg 1 5).setReg 2 5)
    let t := after ((((start 0x8125).setReg 1 4).setReg 2 5).setReg 15 1)
    s.reg 1 = 0x00 ∧ s.reg 15 = 0x01 ∧ t.reg 1 = 0xFF ∧ t.reg 15 = 0x00 := by decide +kernel

/-- 43.17, 43.18. -/
theorem test_sub_vf :
    (after (((start 0x8F15).setReg 15 3).setReg 1 5)).reg 15 = 0x00 ∧
    (after (((start 0x81F5).setReg 1 0x10).setReg 15 1)).reg 1 = 0x0F := by decide +kernel

/-- 43.20, 43.22. -/
theorem test_shr :
    let s := after ((((start 0x8126).setReg 1 2).setReg 2 0xFF).setReg 15 1)
    s.reg 1 = 0x01 ∧ s.reg 15 = 0x00 ∧ s.reg 2 = 0xFF ∧ (after ((start 0x8F06).setReg 15 2)).reg 15 = 0x00 := by
  decide +kernel

/-- 43.23, 43.24. -/
theorem test_subn :
    let s := after (((start 0x8127).setReg 1 5).setReg 2 4)
    let t := after (((start 0x8127).setReg 1 4).setReg 2 5)
    s.reg 1 = 0xFF ∧ s.reg 15 = 0x00 ∧ t.reg 1 = 0x01 ∧ t.reg 15 = 0x01 := by decide +kernel

/-- 43.26, 43.28. -/
theorem test_shl :
    let s := after ((start 0x812E).setReg 1 0x81)
    s.reg 1 = 0x02 ∧ s.reg 15 = 0x01 ∧ (after ((start 0x8F0E).setReg 15 0x80)).reg 15 = 0x01 := by decide +kernel

/-- 43.30, 43.32. -/
theorem test_rnd :
    (afterOp (.step 0 0xA7#8) (start 0xC30F)).reg 3 = 0x07 ∧ (afterOp (.step 0 0x5C#8) (start 0xC3FF)).reg 3 = 0x5C := by
  decide +kernel

/-- 44.1. -/
theorem test_ld_i : (after (start 0xA123)).i = 0x123#16 ∧ (after (start 0xA123)).pc = 0x202#16 := by decide +kernel

/-- 44.2, 44.3. -/
theorem test_add_i :
    (after { (start 0xF11E).setReg 1 2 with i := 0x0FFF#16 }).i = 0x1001#16 ∧
    (after { (start 0xF11E).setReg 1 2 with i := 0xFFFF#16 }).i = 0x0001#16 := by decide +kernel

/-- 44.6, 44.7. -/
theorem test_ld_f :
    (after ((start 0xF129).setReg 1 0x0F)).i = 0x4B#16 ∧
    (after ((start 0xF129).setReg 1 0x10)).stepResult = .fault .invalidDigit := by decide +kernel

/-- 44.12. -/
theorem test_bcd :
    let s := after { (start 0xF333).setReg 3 0x9C with i := 0xFFD#16 }
    s.bytesAt 0xFFD 3 = [1, 5, 6] ∧ s.stepResult = .ok := by decide +kernel

/-- 44.13: no byte is written. -/
theorem test_bcd_outside :
    let s := { (start 0xF333).setReg 3 0x9C with i := 0xFFE#16 }
    (after s).stepResult = .fault .outOfBounds ∧ (after s).mem = s.mem := by decide +kernel

/-- 44.15, 44.20: a store over the instruction itself. -/
theorem test_store_regs :
    let s := { (((start 0xF155).setReg 0 0x12).setReg 1 0x08) with i := 0x200#16 }
    (after s).bytesAt 0x200 2 = [0x12, 0x08] ∧ (after s).pc = 0x202#16 ∧
      (after { s with i := 0xFFF#16 }).mem = s.mem := by decide +kernel

/-- 44.17, 44.18. -/
theorem test_load_regs :
    let s := { (((start 0xF265).storeBytes 0x300 [1, 5, 6]).setReg 3 0x77) with i := 0x300#16 }
    let t := after s
    t.v.toList.take 4 = [1, 5, 6, 0x77] ∧ t.i = 0x300#16 ∧
      (after { start 0xFF65 with i := 0xFF1#16 }).stepResult = .fault .outOfBounds := by decide +kernel

/-- S3. -/
theorem test_cls :
    let s := after { start 0x00E0 with fb := (State.reset.fb.set 0 1).set 31 0x8000000000000000#64 }
    s.fb = State.reset.fb ∧ s.redraw = true ∧ s.pc = 0x202#16 := by decide +kernel

/-- 45.5: the wrap of a row. -/
theorem test_drw_wrap :
    let s := after { (((start 0xD011).storeByte 0x300 0xFF).setReg 0 60) with i := 0x300#16 }
    s.fb[0] = 0xF00000000000000F#64 ∧ s.reg 15 = 0 ∧ s.redraw = true := by decide +kernel

/-- 45.12, 45.13: `VF` is read as a coordinate, then written. -/
theorem test_drw_vf :
    let s := { ((((start 0xDF11).storeByte 0x300 0x80).setReg 15 5).setReg 1 2) with i := 0x300#16 }
    let t := after { s with fb := s.fb.set 2 0x20 }
    (after s).fb.pixel 133 = true ∧ (after s).reg 15 = 0 ∧ t.fb.pixel 133 = false ∧ t.reg 15 = 1 := by decide +kernel

/-- 46.1, 46.2, 46.3. -/
theorem test_timers :
    (after { start 0xF607 with dt := 5 }).reg 6 = 5 ∧ (after ((start 0xF515).setReg 5 7)).dt = 7 ∧
    (after ((start 0xF218).setReg 2 0x3C)).st = 0x3C := by decide +kernel

/-- 46.4, 46.5. -/
theorem test_tick :
    (afterOp .tickTimers { State.reset with dt := 2 }).dt = 1 ∧ (afterOp .tickTimers { State.reset with dt := 2 }).st = 0 ∧
    (afterOp .tickTimers { State.reset with dt := 0 }).dt = 0 := by decide +kernel

/-- 46.6: a key already held is not taken. -/
theorem test_key_wait :
    let s := afterOp (.step 0x0008#16 0) (start 0xF50A)
    s.stepResult = .waitingForKey ∧ s.waitReg = 5 ∧ s.pc = 0x202#16 ∧ s.reg 5 = 0 := by decide +kernel

/-- 46.8, 46.9. -/
theorem test_resume :
    let s := afterOp (.resume 0xC) (after (start 0xF50A))
    s.reg 5 = 0x0C ∧ s.run = .running ∧ s.pc = 0x202#16 ∧ afterOp (.resume 3) State.reset = State.reset := by
  decide +kernel

/-- 70.2. -/
theorem test_load_program :
    (afterOp (.loadProgram [0x6A, 0x05]) State.reset).bytesAt 0x200 2 = [0x6A, 0x05] := by decide +kernel

/-- R201, U21: a second load is refused, also after an empty image (70.5), which writes nothing; after a timer tick, which
is no step, a load is accepted. -/
theorem test_load_twice :
    (afterHost (.loadProgram []) Session.reset).core = State.reset ∧
    apply (.loadProgram [0x6A, 0x05]) (afterHost (.loadProgram []) Session.reset) =
      .refused .loadOutsidePrecondition ∧
    (afterHost (.loadProgram [0x6A]) (afterHost .tickTimers Session.reset)).core.byteAt 0x200 = 0x6A := by
  exact ⟨by decide +kernel, rfl, by decide +kernel⟩

/-- R201: after a step a load is refused, whatever the state. -/
theorem test_load_after_step :
    apply (.loadProgram [0x6A, 0x05]) (afterHost (.step 0 0) Session.reset) = .refused .loadOutsidePrecondition ∧
    apply (.loadProgram [0x6A, 0x05]) ⟨State.reset, false⟩ = .refused .loadOutsidePrecondition := by
  exact ⟨rfl, rfl⟩

/-! ### Witnesses: states and operands that meet the hypotheses of the statements, at the edges of their clauses -/

theorem witness_DecodeOfEncode : (Instr.sys 0xFFF#12).wellFormed = true := by decide

theorem witness_EncodeOfDecode : decode 0x00EF#16 = .ok (.sys 0x0EF#12) := by decide

/-- 40.1. -/
theorem witness_StepRunsTheDecodedInstruction :
    let s := { State.reset with pc := 0xFFE#16 }.withFetchWord 16 0x6A05
    s.run = .running ∧ s.pc.toNat ≤ 4094 ∧ decode (wordAtPc s) = .ok (.ldVxKk 10 5) := by decide +kernel

theorem witness_PlacedWordIsRunNext : 0xFF65 < 65536 ∧ decode (BitVec.ofNat 16 0xFF65) = .ok (.ldVxMem 15) := by decide

theorem witness_FetchOutsideMemoryFaults :
    let s := { State.reset with pc := 0xFFE#16 }
    let t := { State.reset with pc := 0xFFF#16 }
    (s.run = .running ∧ s.pc.toNat ≤ 4094) ∧ (t.run = .running ∧ 4095 ≤ t.pc.toNat) := by decide

theorem witness_IllegalWordRaisesInvalidOpcode :
    let s := { State.reset with pc := 0xFFE#16 }.withFetchWord 16 0x5121
    s.run = .running ∧ s.pc.toNat ≤ 4094 ∧ decode (wordAtPc s) = .error (.invalidOpcode (wordAtPc s)) := by
  decide +kernel

theorem witness_StepOutsideRunning :
    (State.reset.enterWait 5).run = .waiting ∧ (State.reset.raise .invalidDigit).run = .faulted := by decide

theorem witness_Call :
    ({ State.reset with sp := 15 } : State).sp.val < 16 ∧ ({ State.reset with sp := 16 } : State).sp.val = 16 := by decide

theorem witness_Return :
    ({ State.reset with sp := 1 } : State).sp.val = (0 : Fin 16).val + 1 ∧
    ({ State.reset with sp := 16 } : State).sp.val = (15 : Fin 16).val + 1 ∧ State.reset.sp.val = 0 := by decide

theorem witness_CallThenReturn :
    let s := { State.reset with sp := 15 }
    let t := afterExec (.call 0x300#12) s
    let u := { t with pc := 0x310#16 }
    s.sp.val < 16 ∧ exec (.call 0x300#12) s = .next t ∧ u.stack = t.stack ∧ u.sp = t.sp := by
  exact ⟨by decide, rfl, rfl, rfl⟩

theorem witness_SkipOnKey :
    ((State.reset.setReg 5 15).reg 5).toNat ≤ 15 ∧ 15 < ((State.reset.setReg 5 16).reg 5).toNat := by decide

/-- Taken, not taken and outside the keypad (the faulting clause: `V[5] = 16`), from the last `PC` a fetch can have. -/
theorem witness_SkipsAdvance :
    let s := { State.reset with pc := 0xFFE#16 }
    isSkip (.seVxKk 0 0) = true ∧ isSkip (.skpVx 5) = true ∧ s.pc.toNat ≤ 4094 ∧
      exec (.seVxKk 0 0) s = .next (afterExec (.seVxKk 0 0) s) ∧
      exec (.sneVxKk 0 0) s = .next (afterExec (.sneVxKk 0 0) s) ∧
      exec (.skpVx 5) (s.setReg 5 16) = .next (afterExec (.skpVx 5) (s.setReg 5 16)) ∧
      15 < ((s.setReg 5 16).reg 5).toNat := by
  exact ⟨rfl, rfl, by decide, rfl, rfl, rfl, by decide⟩

/-- The hypothesis `x ≠ 15` of the flag writers, at its edge. -/
theorem witness_flag_writers_destination : (14 : Reg) ≠ 15 := by decide

theorem witness_StepOperationReads :
    let s := (start 0xE59E).setReg 5 15
    let t := (start 0xE5A1).setReg 5 15
    (s.run = .running ∧ s.pc.toNat ≤ 4094 ∧ decode (wordAtPc s) = .ok (.skpVx 5) ∧ (s.reg 5).toNat ≤ 15) ∧
    (t.run = .running ∧ t.pc.toNat ≤ 4094 ∧ decode (wordAtPc t) = .ok (.sknpVx 5) ∧ (t.reg 5).toNat ≤ 15) ∧
    decode (wordAtPc (start 0xC30F)) = .ok (.rndVxKk 3 0x0F#8) := by decide +kernel

theorem witness_LoadGlyph :
    ((State.reset.setReg 1 15).reg 1).toNat ≤ 15 ∧ 15 < ((State.reset.setReg 1 16).reg 1).toNat := by decide

theorem witness_StoreDecimal :
    (State.reset.setI 0xFFD#16).i.toNat ≤ 4093 ∧ 4094 ≤ (State.reset.setI 0xFFE#16).i.toNat := by decide

theorem witness_RegisterRange :
    (State.reset.setI 0xFF0#16).i.toNat + (15 : Reg).val < 4096 ∧
    4096 ≤ (State.reset.setI 0xFF1#16).i.toNat + (15 : Reg).val := by decide

theorem witness_StoreThenLoad :
    let s := State.reset.setI 0xFF0#16
    s.i.toNat + (15 : Reg).val < 4096 ∧ exec (.ldMemVx 15) s = .next (afterExec (.ldMemVx 15) s) := by
  exact ⟨by decide, rfl⟩

/-- `V[14]` and `V[15]` over the last word of memory. -/
theorem witness_StoreIsSeen :
    let s := { State.reset.setI 0xFF0#16 with pc := 0xFFC#16 }
    s.run = .running ∧ s.pc.toNat + 3 < 4096 ∧ s.i.toNat + (15 : Reg).val < 4096 ∧
      exec (.ldMemVx 15) s = .next (afterExec (.ldMemVx 15) s) ∧ (15 : Reg).val = (14 : Reg).val + 1 ∧
      (15 : Reg).val ≤ (15 : Reg).val ∧ s.pc.toNat + 2 = s.i.toNat + (14 : Reg).val := by
  exact ⟨rfl, by decide, by decide, rfl, by decide, by decide, by decide⟩

/-- No rows at any `I`, the last row in memory, the first row outside it. -/
theorem witness_Draw_rows :
    ((0 : Fin 16).val = 0 ∨ (State.reset.setI 0xFFFF#16).i.toNat + (0 : Fin 16).val - 1 < 4096) ∧
    (State.reset.setI 0xFF1#16).i.toNat + (15 : Fin 16).val - 1 < 4096 ∧
    ((15 : Fin 16).val ≠ 0 ∧ 4096 ≤ (State.reset.setI 0xFF2#16).i.toNat + (15 : Fin 16).val - 1) := by decide

/-- One row `0x80` at the last byte of memory, drawn at column 63 of row 31 (45.7). -/
def spriteState : State := { (State.reset.storeByte 0xFFF 0x80).setI 0xFFF#16 with v := Vector.replicate 16 0xFF }

theorem witness_Draw_covered : SpriteCovers spriteState 0 1 1 2047 :=
  ⟨0, 0, by decide, by decide, by decide +kernel, by decide +kernel⟩

theorem witness_Draw_not_covered : ¬ SpriteCovers spriteState 0 1 1 0 := by
  rintro ⟨dy, dx, hy, _, _, hp⟩
  have h0 : dy = 0 := by simpa using hy
  have h31 : (spriteState.reg 1).toNat = 255 := by decide +kernel
  rw [h0, h31] at hp
  omega

/-- A collision: the covered pixel is on; without it there is none. -/
theorem witness_Draw_collision :
    ∃ p, SpriteCovers { spriteState with fb := Vector.replicate 32 0x8000000000000000#64 } 0 1 1 p ∧
      Framebuffer.pixel (Vector.replicate 32 0x8000000000000000#64) p = true :=
  ⟨2047, ⟨0, 0, by decide, by decide, by decide +kernel, by decide +kernel⟩, by decide +kernel⟩

theorem witness_Draw_no_collision : ¬ ∃ p, SpriteCovers State.reset 0 1 0 p ∧ State.reset.fb.pixel p = true := by
  rintro ⟨p, ⟨dy, dx, hy, _⟩, _⟩
  exact absurd hy (Nat.not_lt_zero dy)

theorem witness_DrawingTwice :
    let t := afterExec (.drwVxVyN 0 1 1) spriteState
    exec (.drwVxVyN 0 1 1) spriteState = .next t ∧ t.fb = t.fb ∧ t.i = spriteState.i ∧ t.reg 0 = spriteState.reg 0 ∧
      t.reg 1 = spriteState.reg 1 ∧ (∀ a, t.byteAt a = spriteState.byteAt a) ∧
      ((1 : Fin 16).val = 0 ∨ spriteState.i.toNat + (1 : Fin 16).val - 1 < 4096) ∧
      ∃ p, SpriteCovers spriteState 0 1 1 p ∧ spriteState.fb.pixel p = false := by
  refine ⟨rfl, rfl, by decide +kernel, by decide +kernel, by decide +kernel, fun _ => rfl, by decide +kernel, 2047,
    witness_Draw_covered, by decide +kernel⟩

theorem witness_Resume :
    (State.reset.enterWait 15).run = .waiting ∧ State.reset.run ≠ .waiting ∧
    (State.reset.raise .outOfBounds).run ≠ .waiting := by decide

/-- The longest image, one byte more, a changed state, and a state as reset left it after a step. -/
theorem witness_LoadProgram :
    (List.replicate 3584 (0xAA : Byte)).length ≤ 3584 ∧ 3584 < (List.replicate 3585 (0xAA : Byte)).length ∧
    State.reset.advance ≠ State.reset.advance.afterReset ∧ (⟨State.reset, false⟩ : Session).fresh = false := by
  exact ⟨List.length_replicate.le, by rw [List.length_replicate]; decide, by decide +kernel, rfl⟩

/-- A step, an accepted load, and a tick in a session that a step has ended. -/
theorem witness_LoadIsRefused :
    apply (.step 0 0) Session.reset = .next (afterHost (.step 0 0) Session.reset, .ok) ∧
    apply (.loadProgram []) Session.reset = .next (afterHost (.loadProgram []) Session.reset, .ok) ∧
    apply .tickTimers ⟨State.reset, false⟩ = .next (afterHost .tickTimers ⟨State.reset, false⟩, .nothing) ∧
    Operation.tickTimers ≠ .reset := by
  exact ⟨rfl, rfl, rfl, by decide⟩

/-- A fault and none, of one instruction. -/
theorem witness_InstructionsFault :
    exec .ret State.reset = .next (afterExec .ret State.reset) ∧ faultOf State.reset .ret = some .stackUnderflow ∧
    faultOf { State.reset with sp := 1 } .ret = none ∧ State.reset.run = .running := by
  exact ⟨rfl, by decide, by decide, by decide⟩

/-- The edges of the other faults: the last operand without one, and the first with one. -/
theorem witness_InstructionsFault_edges :
    faultOf { State.reset with sp := 15 } (.call 0) = none ∧
    faultOf { State.reset with sp := 16 } (.call 0) = some .stackOverflow ∧
    faultOf (State.reset.setReg 1 15) (.ldFVx 1) = none ∧
    faultOf (State.reset.setReg 1 16) (.ldFVx 1) = some .invalidDigit ∧
    faultOf (State.reset.setI 0xFFD#16) (.ldBVx 1) = none ∧
    faultOf (State.reset.setI 0xFFE#16) (.ldBVx 1) = some .outOfBounds ∧
    faultOf (State.reset.setI 0xFFFF#16) (.drwVxVyN 0 1 0) = none := by decide

theorem witness_FaultingStep :
    let s := { State.reset with pc := 0xFFF#16 }
    s.run = .running ∧ step s = .next (after s) ∧ (after s).run = .faulted ∧
      (after s).fault ≠ .invalidOpcode ∧ (after (start 0xF000)).fault = .invalidOpcode := by
  exact ⟨rfl, rfl, rfl, by decide, by decide +kernel⟩

theorem witness_OnlyResetLeavesFaulted :
    let r : Session := ⟨State.reset.raise .stackOverflow, false⟩
    r.core.run = .faulted ∧ Operation.tickTimers ≠ .reset ∧
      apply .tickTimers r = .next (afterHost .tickTimers r, .nothing) := by
  exact ⟨rfl, by decide, rfl⟩

/-- A state of the invariant that no reset leaves: at the edges of its bounds, with a byte listed and a fault. -/
theorem witness_Inv :
    State.Inv { State.reset with
      pc := 0x10FE#16, mem := [(0xFFF, 0x80)], sp := 1, stack := Vector.replicate 16 0x1000#16,
      run := .faulted, fault := .invalidOpcode, faultOp := 0xF000#16 } where
  memoryCanonical := by decide +kernel
  pcBound := by decide
  stackEntries := by decide +kernel
  faultRecorded := by decide
  faultOpUnused := by decide
  faultOpIllegal := by decide

/-- A state of the invariant with its step. -/
theorem witness_EveryStepKeepsTheInvariant :
    State.Inv { State.reset with pc := 0x10FE#16 } ∧
    step { State.reset with pc := 0x10FE#16 } = .next (after { State.reset with pc := 0x10FE#16 }) :=
  ⟨⟨by decide +kernel, by decide, by decide +kernel, by decide, by decide, by decide⟩, rfl⟩

theorem witness_EveryOperationKeepsTheInvariant :
    let r : Session := ⟨{ State.reset with dt := 1 }, false⟩
    r.Inv ∧ apply .tickTimers r = .next (afterHost .tickTimers r, .nothing) :=
  ⟨⟨⟨by decide +kernel, by decide, by decide +kernel, by decide, by decide, by decide⟩, nofun⟩, rfl⟩

theorem witness_RegistersChange :
    exec (.ldVxKk 5 7) State.reset = .next (afterExec (.ldVxKk 5 7) State.reset) ∧
    (afterExec (.ldVxKk 5 7) State.reset).reg 5 ≠ State.reset.reg 5 := by
  exact ⟨rfl, by decide +kernel⟩

theorem witness_DisplayTouched :
    exec .cls State.reset = .next (afterExec .cls State.reset) ∧ (afterExec .cls State.reset).redraw ≠ State.reset.redraw ∧
    ({ State.reset with redraw := true } : State).redraw = true := by
  exact ⟨rfl, by decide, rfl⟩

theorem witness_MemoryAndIndexTouched :
    let s := (State.reset.setReg 0 0xAA).setI 0xFFF#16
    exec (.ldMemVx 0) s = .next (afterExec (.ldMemVx 0) s) ∧
      (∃ a, (afterExec (.ldMemVx 0) s).byteAt a ≠ s.byteAt a) ∧ (afterExec (.ldIAddr 1) s).i ≠ s.i := by
  exact ⟨rfl, ⟨0xFFF, by decide +kernel⟩, by decide +kernel⟩

theorem witness_StackAndTimersTouched :
    let s := State.reset.setReg 5 7
    exec (.call 0x300) s = .next (afterExec (.call 0x300) s) ∧ (afterExec (.call 0x300) s).stack ≠ s.stack ∧
      (afterExec (.call 0x300) s).sp ≠ s.sp ∧ (afterExec (.ldDtVx 5) s).dt ≠ s.dt ∧
      (afterExec (.ldStVx 5) s).st ≠ s.st ∧ (afterExec (.ldVxK 5) s).waitReg ≠ s.waitReg := by
  exact ⟨rfl, by decide +kernel, by decide +kernel, by decide +kernel, by decide +kernel, by decide +kernel⟩

theorem witness_InputsMatter :
    (∀ x : Reg, Instr.cls ≠ .skpVx x ∧ Instr.cls ≠ .sknpVx x) ∧ (∀ (x : Reg) (kk : Byte), Instr.cls ≠ .rndVxKk x kk) := by
  exact ⟨fun _ => ⟨nofun, nofun⟩, fun _ _ => nofun⟩

/-- 41.2, at the last `PC` a fetch can have. -/
theorem witness_SelfJump : SelfJump ({ State.reset with pc := 0xFFE#16 }.withFetchWord 16 0x1FFE) :=
  ⟨rfl, 0xFFE#12, by decide +kernel, by decide⟩

end Sys2Proof.Tests
end

section
/-! SUPPORT. Frames: the pieces of the state each named update and each instruction may change. -/

namespace Sys2Proof.Machine

/-! ### Composing frames -/

theorem OnlyChanges.mono {ws ws' : List Component} {s t : State} (h : OnlyChanges ws s t) (hsub : ws ⊆ ws') :
    OnlyChanges ws' s t :=
  fun c hc => h c fun hw => hc (hsub hw)

theorem Same.trans {s t u : State} {c : Component} (hst : Same s t c) (htu : Same t u c) : Same s u c := by
  cases c
  case v => exact fun r => (htu r).trans (hst r)
  case mem => exact fun a => (htu a).trans (hst a)
  all_goals exact Eq.trans htu hst

/-- Two changes one after the other: the pieces of either may have changed. -/
theorem OnlyChanges.trans {ws ws' : List Component} {s t u : State} (hst : OnlyChanges ws s t)
    (htu : OnlyChanges ws' t u) : OnlyChanges (ws ++ ws') s u := by
  intro c hc
  rw [List.mem_append, not_or] at hc
  exact (hst c hc.1).trans (htu c hc.2)

/-- One change or another: the pieces of either may have changed. -/
theorem OnlyChanges.ite {p : Prop} [Decidable p] {ws ws' : List Component} {s t u : State}
    (ht : OnlyChanges ws s t) (hu : OnlyChanges ws' s u) : OnlyChanges (ws ++ ws') s (if p then t else u) :=
  iteInduction (fun _ => ht.mono (List.subset_append_left _ _)) (fun _ => hu.mono (List.subset_append_right _ _))

/-! ### The frame of each named update -/

section
variable (s : State)

theorem onlyChanges_setReg (r : Reg) (b : Byte) : OnlyChanges [.v] s (s.setReg r b) := by
  intro c hc; cases c <;> simp [Same] at hc ⊢

theorem onlyChanges_setResultAndFlag (x : Reg) (b : Byte) (f : Bool) :
    OnlyChanges [.v] s (s.setResultAndFlag x b f) := by
  intro c hc; cases c <;> simp [Same] at hc ⊢

theorem onlyChanges_loadRegsUpTo (x : Reg) (a : Nat) : OnlyChanges [.v] s (s.loadRegsUpTo x a) := by
  intro c hc; cases c <;> simp [Same] at hc ⊢

theorem onlyChanges_setI (w : Word) : OnlyChanges [.i] s (s.setI w) := by
  intro c hc; cases c <;> simp [Same] at hc ⊢

theorem onlyChanges_setDt (b : Byte) : OnlyChanges [.dt] s (s.setDt b) := by
  intro c hc; cases c <;> simp [Same] at hc ⊢

theorem onlyChanges_setSt (b : Byte) : OnlyChanges [.st] s (s.setSt b) := by
  intro c hc; cases c <;> simp [Same] at hc ⊢

theorem onlyChanges_advance : OnlyChanges [.pc] s s.advance := by
  intro c hc; cases c <;> simp [Same] at hc ⊢

theorem onlyChanges_jump (w : Word) : OnlyChanges [.pc] s (s.jump w) := by
  intro c hc; cases c <;> simp [Same] at hc ⊢

theorem onlyChanges_skipWhen (b : Bool) : OnlyChanges [.pc] s (s.skipWhen b) := by
  intro c hc; cases c <;> simp [Same] at hc ⊢

theorem onlyChanges_storeBytes (a : Nat) (bs : List Byte) : OnlyChanges [.mem] s (s.storeBytes a bs) := by
  intro c hc; cases c <;> simp [Same] at hc ⊢

theorem onlyChanges_push (w : Word) : OnlyChanges [.stack, .sp] s (s.push w) := by
  intro c hc; cases c <;> simp [Same] at hc ⊢

theorem onlyChanges_pop : OnlyChanges [.sp] s s.pop := by
  intro c hc; cases c <;> simp [Same] at hc ⊢

theorem onlyChanges_present (fb : Framebuffer) : OnlyChanges [.fb, .redraw] s (s.present fb) := by
  intro c hc; cases c <;> simp [Same] at hc ⊢

theorem onlyChanges_enterWait (x : Reg) : OnlyChanges [.run, .waitReg] s (s.enterWait x) := by
  intro c hc; cases c <;> simp [Same] at hc ⊢

theorem onlyChanges_keysTaken : OnlyChanges [.keyIn] s s.keysTaken := by
  intro c hc; cases c <;> simp [Same] at hc ⊢

theorem onlyChanges_rndTaken : OnlyChanges [.rndIn] s s.rndTaken := by
  intro c hc; cases c <;> simp [Same] at hc ⊢

theorem onlyChanges_raise (f : FaultCode) : OnlyChanges [.run, .fault] s (s.raise f) := by
  intro c hc; cases c <;> simp [Same] at hc ⊢

end

/-! ### The frame of each instruction -/

/-- The state an instruction leaves (`exec_eq_next`). -/
def State.afterInstr (s : State) (i : Instr) : State :=
  match exec i s with
  | .next t => t
  | .fault _ => s
  | .refused _ => s

/-- Every instruction answers a next state (R80, R176). -/
theorem exec_eq_next (i : Instr) (s : State) : exec i s = .next (s.afterInstr i) := by
  cases i <;> rfl

theorem eq_afterInstr {i : Instr} {s t : State} (h : exec i s = .next t) : t = s.afterInstr i := by
  rw [exec_eq_next] at h
  exact (Host.Outcome.next.inj h).symm

/-- `SKP` and `SKNP`: a skip for a key of the keypad, a fault for any other index (R114, R115, decision D7). -/
theorem skipOnKey_eq (x : Reg) (wanted : Bool) (s : State) :
    skipOnKey x wanted s = if (s.reg x).toNat ≤ 15
      then s.keysTaken.skipWhen (s.keys.getLsbD (s.reg x).toNat == wanted) else s.raise .outOfBounds := by
  unfold skipOnKey keyHeld
  split_ifs <;> rfl

/-- The pieces of the state an instruction may change; those that can fault may change the record (R176). -/
def writtenBy : Instr → List Component
  | .cls => [.fb, .redraw, .pc]
  | .ret => [.run, .fault, .sp, .pc]
  | .call _ => [.run, .fault, .stack, .sp, .pc]
  | .sys _ | .jp _ | .jpV0Addr _ | .seVxKk _ _ | .sneVxKk _ _ | .seVxVy _ _ | .sneVxVy _ _ => [.pc]
  | .skpVx _ | .sknpVx _ => [.keyIn, .pc, .run, .fault]
  | .ldVxKk _ _ | .addVxKk _ _ | .ldVxVy _ _ | .orVxVy _ _ | .andVxVy _ _ | .xorVxVy _ _ => [.v, .pc]
  | .addVxVy _ _ | .subVxVy _ _ | .shrVx _ _ | .subnVxVy _ _ | .shlVx _ _ | .ldVxDt _ => [.v, .pc]
  | .rndVxKk _ _ => [.rndIn, .v, .pc]
  | .ldIAddr _ | .addIVx _ => [.i, .pc]
  | .ldFVx _ => [.run, .fault, .i, .pc]
  | .ldBVx _ | .ldMemVx _ => [.mem, .pc, .run, .fault]
  | .ldVxMem _ => [.v, .pc, .run, .fault]
  | .drwVxVyN _ _ _ => [.fb, .redraw, .v, .pc, .run, .fault]
  | .ldVxK _ => [.run, .waitReg, .pc]
  | .ldDtVx _ => [.dt, .pc]
  | .ldStVx _ => [.st, .pc]

theorem onlyChanges_skipOnKey (x : Reg) (wanted : Bool) (s : State) :
    OnlyChanges [.keyIn, .pc, .run, .fault] s (skipOnKey x wanted s) := by
  rw [skipOnKey_eq]
  exact ((onlyChanges_keysTaken s).trans (onlyChanges_skipWhen _ _)).ite (onlyChanges_raise s _)

/-- Nothing outside the table `writtenBy` changes: each instruction is a chain of named updates. -/
theorem onlyChanges_afterInstr (s : State) : ∀ i : Instr, OnlyChanges (writtenBy i) s (s.afterInstr i)
  | .cls => (onlyChanges_present s _).trans (onlyChanges_advance _)
  | .ret => (onlyChanges_raise s _).ite ((onlyChanges_pop s).trans (onlyChanges_jump _ _))
  | .call _ => (onlyChanges_raise s _).ite ((onlyChanges_push s _).trans (onlyChanges_jump _ _))
  | .sys _ => onlyChanges_advance s
  | .jp _ | .jpV0Addr _ => onlyChanges_jump s _
  | .seVxKk _ _ | .sneVxKk _ _ | .seVxVy _ _ | .sneVxVy _ _ => onlyChanges_skipWhen s _
  | .skpVx x => onlyChanges_skipOnKey x true s
  | .sknpVx x => onlyChanges_skipOnKey x false s
  | .ldVxKk _ _ | .addVxKk _ _ | .ldVxVy _ _ | .orVxVy _ _ | .andVxVy _ _ | .xorVxVy _ _ | .ldVxDt _ =>
    (onlyChanges_setReg s _ _).trans (onlyChanges_advance _)
  | .addVxVy _ _ | .subVxVy _ _ | .shrVx _ _ | .subnVxVy _ _ | .shlVx _ _ =>
    (onlyChanges_setResultAndFlag s _ _ _).trans (onlyChanges_advance _)
  | .rndVxKk _ _ => ((onlyChanges_rndTaken s).trans (onlyChanges_setReg _ _ _)).trans (onlyChanges_advance _)
  | .ldIAddr _ | .addIVx _ => (onlyChanges_setI s _).trans (onlyChanges_advance _)
  | .ldFVx _ => (onlyChanges_raise s _).ite ((onlyChanges_setI s _).trans (onlyChanges_advance _))
  | .ldBVx _ | .ldMemVx _ =>
    ((onlyChanges_storeBytes s _ _).trans (onlyChanges_advance _)).ite (onlyChanges_raise s _)
  | .ldVxMem _ => ((onlyChanges_loadRegsUpTo s _ _).trans (onlyChanges_advance _)).ite (onlyChanges_raise s _)
  | .drwVxVyN _ _ _ =>
    (((onlyChanges_present s _).trans (onlyChanges_setReg _ _ _)).trans (onlyChanges_advance _)).ite
      (onlyChanges_raise s _)
  | .ldVxK _ => (onlyChanges_enterWait s _).trans (onlyChanges_advance _)
  | .ldDtVx _ => (onlyChanges_setDt s _).trans (onlyChanges_advance _)
  | .ldStVx _ => (onlyChanges_setSt s _).trans (onlyChanges_advance _)

theorem mem_writtenBy_of_changed {i : Instr} {s : State} {c : Component} (h : ¬ Same s (s.afterInstr i) c) :
    c ∈ writtenBy i :=
  by_contra fun hc => h (onlyChanges_afterInstr s i c hc)

end Sys2Proof.Machine
end

section
/-! PROOF. Which registers, pixels, stack slots and timers an instruction may change (O53, O54, O56). -/

namespace Sys2Proof.Machine

/-! ### Registers (R10, R11) -/

theorem Same.regsKept {s t : State} (h : Same s t .v) (written : List Reg) : RegsKeptBut written s t :=
  fun r _ => h r

section
variable (s : State)

theorem regsKept_setReg (x : Reg) (b : Byte) : RegsKeptBut [x] s (s.setReg x b) := by
  intro r hr
  rw [State.reg_setReg, if_neg (by simpa using hr)]

theorem regsKept_setResultAndFlag (x : Reg) (b : Byte) (f : Bool) :
    RegsKeptBut [x, vf] s (s.setResultAndFlag x b f) := by
  intro r hr
  obtain ⟨hx, hvf⟩ : r ≠ x ∧ r ≠ vf := by simpa using hr
  rw [State.reg_setResultAndFlag, if_neg hvf, if_neg hx]

theorem regsKept_loadRegsUpTo (x : Reg) (a : Nat) :
    RegsKeptBut ((List.finRange 16).filter fun r => r ≤ x) s (s.loadRegsUpTo x a) := by
  intro r hr
  rw [State.reg_loadRegsUpTo, if_neg (by simpa using hr)]

/-- The instructions that write a register write their destinations only; all others keep every register. -/
theorem regsKept_afterInstr : ∀ i : Instr, RegsKeptBut (destRegs i) s (s.afterInstr i)
  | .ldVxKk x _ | .addVxKk x _ | .ldVxVy x _ | .orVxVy x _ | .andVxVy x _ | .xorVxVy x _ | .ldVxDt x =>
    regsKept_setReg s x _
  | .rndVxKk x _ => regsKept_setReg s.rndTaken x _
  | .addVxVy x _ | .subVxVy x _ | .shrVx x _ | .subnVxVy x _ | .shlVx x _ => regsKept_setResultAndFlag s x _ _
  | .drwVxVyN _ _ _ => iteInduction (motive := RegsKeptBut [vf] s)
      (fun _ => regsKept_setReg (s.present _) vf _) (fun _ _ _ => rfl)
  | .ldVxMem x => iteInduction (motive := RegsKeptBut (destRegs (.ldVxMem x)) s)
      (fun _ => regsKept_loadRegsUpTo s x _) (fun _ _ _ => rfl)
  | .cls | .ret | .sys _ | .jp _ | .call _ | .jpV0Addr _ | .seVxKk _ _ | .sneVxKk _ _ | .seVxVy _ _ | .sneVxVy _ _
  | .skpVx _ | .sknpVx _ | .ldIAddr _ | .addIVx _ | .ldFVx _ | .ldBVx _ | .ldMemVx _ | .ldVxK _ | .ldDtVx _
  | .ldStVx _ => Same.regsKept (onlyChanges_afterInstr s _ .v (by simp [writtenBy])) _

end

/-- Settles O53: outside its destinations an instruction keeps every register. -/
theorem registersChangeOnlyAsDestinations : Obligations.RegistersChangeOnlyAsDestinations := by
  intro i s t r h hne
  obtain rfl := eq_afterInstr h
  exact by_contra fun hr => hne (regsKept_afterInstr s i r hr)

/-! ### The display (R18, R19, R154) -/

theorem drawing_of_mem_writtenBy {i : Instr} (h : .fb ∈ writtenBy i ∨ .redraw ∈ writtenBy i) :
    i = .cls ∨ ∃ x y n, i = .drwVxVyN x y n := by
  cases i <;> simp [writtenBy] at h ⊢

/-- `REDRAW` once set stays set: the two instructions that write it set it (R19). -/
theorem redraw_afterInstr {s : State} (h : s.redraw = true) (i : Instr) : (s.afterInstr i).redraw = true := by
  by_cases hw : .redraw ∈ writtenBy i
  · obtain rfl | ⟨x, y, n, rfl⟩ := drawing_of_mem_writtenBy (.inr hw)
    · rfl
    · exact iteInduction (motive := fun t : State => t.redraw = true) (fun _ => rfl) (fun _ => h)
  · exact Eq.trans (onlyChanges_afterInstr s i .redraw hw) h

/-- Settles O54: `CLS` and `DRW` alone have the framebuffer and the flag among the pieces they write. -/
theorem onlyClsAndDrwTouchTheDisplay : Obligations.OnlyClsAndDrwTouchTheDisplay := by
  intro i s t h
  obtain rfl := eq_afterInstr h
  exact ⟨fun hne => drawing_of_mem_writtenBy (hne.imp mem_writtenBy_of_changed mem_writtenBy_of_changed),
    fun hr => redraw_afterInstr hr i⟩

/-! ### The call stack, the timers, `WAITREG` and `FONT` (R14, R15, R17, R165) -/

section
variable {i : Instr}

theorem call_of_stack_mem_writtenBy (h : .stack ∈ writtenBy i) : ∃ nnn, i = .call nnn := by
  cases i <;> simp [writtenBy] at h ⊢

theorem ret_or_call_of_sp_mem_writtenBy (h : .sp ∈ writtenBy i) : i = .ret ∨ ∃ nnn, i = .call nnn := by
  cases i <;> simp [writtenBy] at h ⊢

theorem ldDtVx_of_dt_mem_writtenBy (h : .dt ∈ writtenBy i) : ∃ x, i = .ldDtVx x := by
  cases i <;> simp [writtenBy] at h ⊢

theorem ldStVx_of_st_mem_writtenBy (h : .st ∈ writtenBy i) : ∃ x, i = .ldStVx x := by
  cases i <;> simp [writtenBy] at h ⊢

theorem ldVxK_of_waitReg_mem_writtenBy (h : .waitReg ∈ writtenBy i) : ∃ x, i = .ldVxK x := by
  cases i <;> simp [writtenBy] at h ⊢

theorem font_not_mem_writtenBy (i : Instr) : .font ∉ writtenBy i := by
  cases i <;> simp [writtenBy]

end

/-- Settles O56: each piece is written by the instructions listed for it. -/
theorem onlyTheListedInstructionsTouchStackAndTimers : Obligations.OnlyTheListedInstructionsTouchStackAndTimers := by
  intro i s t h
  obtain rfl := eq_afterInstr h
  exact ⟨fun hne => call_of_stack_mem_writtenBy (mem_writtenBy_of_changed hne),
    fun hne => ret_or_call_of_sp_mem_writtenBy (mem_writtenBy_of_changed hne),
    fun hne => ldDtVx_of_dt_mem_writtenBy (mem_writtenBy_of_changed hne),
    fun hne => ldStVx_of_st_mem_writtenBy (mem_writtenBy_of_changed hne),
    fun hne => ldVxK_of_waitReg_mem_writtenBy (mem_writtenBy_of_changed hne),
    onlyChanges_afterInstr s i .font (font_not_mem_writtenBy i)⟩

end Sys2Proof.Machine
end

section
/-! SUPPORT. What a step and the host's `step(KEYS, rnd)` can do, said once (R80, R81, R87). -/

namespace Sys2Proof.Machine

/-! ### Fetch and decode -/

theorem decodeGroup8_error {op : Word} {e : DecodeError} (h : decodeGroup8 op = .error e) : e = .invalidOpcode op := by
  unfold decodeGroup8 at h
  split at h <;> cases h
  rfl

theorem decodeGroupE_error {op : Word} {e : DecodeError} (h : decodeGroupE op = .error e) : e = .invalidOpcode op := by
  unfold decodeGroupE at h
  split_ifs at h
  cases h
  rfl

theorem decodeGroupF_error {op : Word} {e : DecodeError} (h : decodeGroupF op = .error e) : e = .invalidOpcode op := by
  unfold decodeGroupF at h
  split_ifs at h
  cases h
  rfl

/-- A word the decoder rejects is rejected as itself (R66). -/
theorem decode_error {op : Word} {e : DecodeError} (h : decode op = .error e) : e = .invalidOpcode op := by
  unfold decode at h
  split at h
  case h_9 => exact decodeGroup8_error h
  case h_15 => exact decodeGroupE_error h
  case h_16 => exact decodeGroupF_error h
  case h_6 | h_10 => split at h <;> cases h; rfl
  all_goals cases h
  rfl

theorem State.rejectWord_eq (s : State) (op : Word) (e : DecodeError) :
    s.rejectWord op e = s.raiseInvalidOpcode op := by
  cases e <;> rfl

/-- The fetch reads the word at `PC`, big-endian, while `PC <= 4094` (R40, R81). -/
theorem State.fetch_eq (s : State) : s.fetch = if s.pc.toNat ≤ 4094 then some (wordAtPc s) else none := by
  simp only [State.fetch, Config.memSize]
  exact if_congr (by omega) rfl rfl

/-! ### The step -/

theorem step_of_not_running {s : State} (h : s.run ≠ .running) : step s = .next s := by
  unfold step
  split
  · rfl
  · rfl
  · exact absurd ‹_› h

theorem step_of_no_fetch {s : State} (hrun : s.run = .running) (hpc : ¬ s.pc.toNat ≤ 4094) :
    step s = .next (s.raise .outOfBounds) := by
  simp [step, hrun, State.fetch_eq, hpc]

theorem step_of_decode_ok {s : State} {i : Instr} (hrun : s.run = .running) (hpc : s.pc.toNat ≤ 4094)
    (hi : decode (wordAtPc s) = .ok i) : step s = .next (s.afterInstr i) := by
  simp [step, hrun, State.fetch_eq, hpc, hi, exec_eq_next]

theorem step_of_decode_error {s : State} {e : DecodeError} (hrun : s.run = .running) (hpc : s.pc.toNat ≤ 4094)
    (he : decode (wordAtPc s) = .error e) : step s = .next (s.raiseInvalidOpcode (wordAtPc s)) := by
  simp [step, hrun, State.fetch_eq, hpc, he, State.rejectWord_eq]

/-- All a step can do: nothing, a fault of the fetch, a fault of the decoder, one instruction. -/
theorem step_next {s t : State} (h : step s = .next t) :
    (s.run ≠ .running ∧ t = s) ∨
    (s.run = .running ∧ ¬ s.pc.toNat ≤ 4094 ∧ t = s.raise .outOfBounds) ∨
    (s.run = .running ∧ s.pc.toNat ≤ 4094 ∧ decode (wordAtPc s) = .error (.invalidOpcode (wordAtPc s)) ∧
      t = s.raiseInvalidOpcode (wordAtPc s)) ∨
    (s.run = .running ∧ s.pc.toNat ≤ 4094 ∧ ∃ i, decode (wordAtPc s) = .ok i ∧ t = s.afterInstr i) := by
  have answer {u : State} (hu : step s = .next u) : t = u := Host.Outcome.next.inj (h.symm.trans hu)
  by_cases hrun : s.run = .running
  · by_cases hpc : s.pc.toNat ≤ 4094
    · cases hd : decode (wordAtPc s) with
      | ok i => exact .inr (.inr (.inr ⟨hrun, hpc, i, rfl, answer (step_of_decode_ok hrun hpc hd)⟩))
      | error e =>
        obtain rfl := decode_error hd
        exact .inr (.inr (.inl ⟨hrun, hpc, rfl, answer (step_of_decode_error hrun hpc hd)⟩))
    · exact .inr (.inl ⟨hrun, hpc, answer (step_of_no_fetch hrun hpc)⟩)
  · exact .inl ⟨hrun, answer (step_of_not_running hrun)⟩

/-! ### The operation `step(KEYS, rnd)` -/

/-- The state in which an operation `step(KEYS, rnd)` runs its step: the arguments are the inputs (R22, R23). -/
def State.withInputs (s : State) (keys : BitVec 16) (rnd : Byte) : State :=
  { s with keyIn := { given := [keys], taken := 0 }, rndIn := { given := [rnd], taken := 0 } }

/-- The inputs of the later steps put back. -/
def State.withInputsOf (t s : State) : State := { t with keyIn := s.keyIn, rndIn := s.rndIn }

theorem stepOn_of_step {s u : State} {keys : BitVec 16} {rnd : Byte}
    (h : step (s.withInputs keys rnd) = .next u) : stepOn keys rnd s = .next (u.withInputsOf s) := by
  unfold State.withInputs at h
  simp only [stepOn, h, State.withInputsOf]

/-- All the operation can answer. -/
theorem stepOn_next {s t : State} {keys : BitVec 16} {rnd : Byte} (h : stepOn keys rnd s = .next t) :
    ∃ u, step (s.withInputs keys rnd) = .next u ∧ t = u.withInputsOf s := by
  unfold stepOn at h
  split at h <;> cases h
  exact ⟨_, ‹_›, rfl⟩

theorem State.stepResult_of_running {s : State} (h : s.run = .running) : s.stepResult = .ok := by
  simp [State.stepResult, h]

/-- The operation on a decoded instruction that leaves the core running: `Ok`, and the session is no longer fresh. -/
theorem apply_step_ok {s : State} {i : Instr} (fresh : Bool) {keys : BitVec 16} {rnd : Byte}
    (hrun : s.run = .running) (hpc : s.pc.toNat ≤ 4094) (hi : decode (wordAtPc s) = .ok i)
    (hok : ((s.withInputs keys rnd).afterInstr i).run = .running) :
    apply (.step keys rnd) ⟨s, fresh⟩ =
      .next (⟨((s.withInputs keys rnd).afterInstr i).withInputsOf s, false⟩, .ok) := by
  have hstep : step (s.withInputs keys rnd) = .next ((s.withInputs keys rnd).afterInstr i) :=
    step_of_decode_ok hrun hpc hi
  have hres : (((s.withInputs keys rnd).afterInstr i).withInputsOf s).stepResult = .ok :=
    State.stepResult_of_running hok
  simp only [apply_step, hostStep, stepOn_of_step hstep, hres]

/-- The frame of the operation is that of its step without the two inputs. -/
theorem OnlyChanges.withInputsOf {ws ws' : List Component} {s u : State} {keys : BitVec 16} {rnd : Byte}
    (h : OnlyChanges ws (s.withInputs keys rnd) u) (hsub : ws ⊆ .keyIn :: .rndIn :: ws') :
    OnlyChanges ws' s (u.withInputsOf s) := by
  intro c hc
  have hsame (hkeys : c ≠ .keyIn) (hrnd : c ≠ .rndIn) : Same (s.withInputs keys rnd) u c :=
    h c fun hw => by simpa [hkeys, hrnd, hc] using hsub hw
  cases c
  case keyIn => rfl
  case rndIn => rfl
  all_goals exact hsame nofun nofun

/-! ### The arguments reach their readers (R22, R23, R89) -/

theorem State.skipWhen_pc_eq (s : State) (c : Bool) :
    (s.skipWhen c).pc = if c = true then s.pc + 4 else s.pc + 2 := by
  have h4 : s.npc + 2 = s.pc + 4 := by simp [State.npc, BitVec.add_assoc]
  rw [State.skipWhen_pc, h4, State.npc]

/-- `SKP` (`wanted`) and `SKNP` (not `wanted`) as host operations, with a key index inside the keypad. -/
theorem apply_step_skipOnKey {s : State} {i : Instr} {x : Reg} {wanted : Bool} (fresh : Bool) (keys : BitVec 16)
    (rnd : Byte) (hrun : s.run = .running) (hpc : s.pc.toNat ≤ 4094) (hi : decode (wordAtPc s) = .ok i)
    (hskip : ∀ u : State, u.afterInstr i = skipOnKey x wanted u) (hx : (s.reg x).toNat ≤ 15) :
    ∃ t, apply (.step keys rnd) ⟨s, fresh⟩ = .next (⟨t, false⟩, .ok) ∧ OnlyChanges [.pc] s t ∧
      t.pc = if (keys.getLsbD (s.reg x).toNat == wanted) = true then s.pc + 4 else s.pc + 2 := by
  have hafter : (s.withInputs keys rnd).afterInstr i =
      (s.withInputs keys rnd).keysTaken.skipWhen (keys.getLsbD (s.reg x).toNat == wanted) := by
    rw [hskip, skipOnKey_eq]
    exact if_pos hx
  refine ⟨_, apply_step_ok fresh hrun hpc hi (by rw [hafter]; exact hrun), ?_, ?_⟩ <;> rw [hafter]
  · exact ((onlyChanges_keysTaken _).trans (onlyChanges_skipWhen _ _)).withInputsOf (by simp)
  · exact State.skipWhen_pc_eq (s.withInputs keys rnd).keysTaken _

/-- Settles O28: the operation runs its step on the inputs given by its arguments and then puts the old ones back. -/
theorem stepOperationReadsItsArguments : Obligations.StepOperationReadsItsArguments := by
  intro s fresh keys rnd x hrun hpc
  refine ⟨fun hi hx => ?_, fun hi hx => ?_, fun kk hi => ?_⟩
  · simpa using apply_step_skipOnKey (wanted := true) fresh keys rnd hrun hpc hi (fun _ => rfl) hx
  · obtain ⟨t, happly, hframe, ht⟩ :=
      apply_step_skipOnKey (wanted := false) fresh keys rnd hrun hpc hi (fun _ => rfl) hx
    refine ⟨t, happly, hframe, ht.trans ?_⟩
    cases keys.getLsbD (s.reg x).toNat <;> rfl
  · exact ⟨_, apply_step_ok fresh hrun hpc hi hrun,
      (onlyChanges_afterInstr (s.withInputs keys rnd) (.rndVxKk x kk)).withInputsOf (by simp [writtenBy]), rfl,
      (State.reg_setReg (s.withInputs keys rnd).rndTaken x x (rnd &&& kk)).trans (if_pos rfl),
      regsKept_setReg (s.withInputs keys rnd).rndTaken x (rnd &&& kk)⟩

end Sys2Proof.Machine
end

section
/-! PROOF. What `reset` leaves, and the invariant: reset has it, every step and every operation keep it (O6, O49, O50,
O51). -/

namespace Sys2Proof.Machine

/-! ### Each named update keeps the invariant -/

section
variable {s : State} (h : s.Inv)
include h

/-- The invariant does not speak of these nine pieces. -/
theorem State.Inv.untracked (v : Vector Byte 16) (i : Word) (dt st : Byte) (fb : Framebuffer) (redraw : Bool)
    (waitReg : Reg) (keyIn : InputStream 16) (rndIn : InputStream 8) :
    State.Inv { s with v := v, i := i, dt := dt, st := st, fb := fb, redraw := redraw, waitReg := waitReg,
                       keyIn := keyIn, rndIn := rndIn } :=
  ⟨h.memoryCanonical, h.pcBound, h.stackEntries, h.faultRecorded, h.faultOpUnused, h.faultOpIllegal⟩

theorem State.Inv.jump {w : Word} (hw : w.toNat ≤ 0x10FE) : (s.jump w).Inv :=
  ⟨h.memoryCanonical, hw, h.stackEntries, h.faultRecorded, h.faultOpUnused, h.faultOpIllegal⟩

theorem State.Inv.fault_of_not_faulted (hrun : s.run ≠ .faulted) : s.fault = .noFault :=
  not_not.mp fun hf => hrun (h.faultRecorded.mpr hf)

/-- `RUN` may pass between `RUNNING` and `WAITING`. -/
theorem State.Inv.setRun {r : RunState} (hrun : s.run ≠ .faulted) (hr : r ≠ .faulted) :
    State.Inv { s with run := r } :=
  ⟨h.memoryCanonical, h.pcBound, h.stackEntries, iff_of_false hr (not_not.mpr (h.fault_of_not_faulted hrun)),
    h.faultOpUnused, h.faultOpIllegal⟩

theorem State.Inv.raise {f : FaultCode} (hrun : s.run ≠ .faulted) (hf : f ≠ .noFault) (hi : f ≠ .invalidOpcode) :
    (s.raise f).Inv :=
  ⟨h.memoryCanonical, h.pcBound, h.stackEntries, iff_of_true rfl hf,
    fun _ => h.faultOpUnused (by rw [h.fault_of_not_faulted hrun]; decide), fun e => absurd e hi⟩

theorem State.Inv.raiseInvalidOpcode {op : Word} (hop : decode op = .error (.invalidOpcode op)) :
    (s.raiseInvalidOpcode op).Inv :=
  ⟨h.memoryCanonical, h.pcBound, h.stackEntries, iff_of_true rfl (by simp), fun e => absurd rfl e, fun _ => hop⟩

theorem State.Inv.storeBytes {a : Nat} {bs : List Byte} (ha : a + bs.length ≤ Config.memSize) :
    (s.storeBytes a bs).Inv where
  memoryCanonical := by simpa using s.wf_storeBytes a bs ha h.memoryCanonical
  pcBound := by simpa using h.pcBound
  stackEntries := by simpa using h.stackEntries
  faultRecorded := by simpa using h.faultRecorded
  faultOpUnused := by simpa using h.faultOpUnused
  faultOpIllegal := by simpa using h.faultOpIllegal

/-- A popped stack has fewer valid entries. -/
theorem State.Inv.pop : s.pop.Inv :=
  ⟨h.memoryCanonical, h.pcBound, fun k hk => h.stackEntries k (Nat.lt_of_lt_of_le hk (Nat.sub_le _ _)),
    h.faultRecorded, h.faultOpUnused, h.faultOpIllegal⟩

theorem State.Inv.stackEntries_push {w : Word} (hsp : s.sp.val < 16) (hw : 2 ≤ w.toNat ∧ w.toNat ≤ 4096)
    (k : Fin 16) (hk : k.val < (s.push w).sp.val) : 2 ≤ ((s.push w).stack[k]).toNat ∧ ((s.push w).stack[k]).toNat ≤ 4096 := by
  rw [s.push_sp w hsp] at hk
  simp only [s.push_stack w hsp, Fin.getElem_fin]
  by_cases he : s.sp.val = k.val
  · simpa [he] using hw
  · rw [Vector.getElem_set_ne _ _ he]
    exact h.stackEntries k (by omega)

/-- What `CALL` pushes is a valid entry. -/
theorem State.Inv.push {w : Word} (hsp : s.sp.val < 16) (hw : 2 ≤ w.toNat ∧ w.toNat ≤ 4096) : (s.push w).Inv where
  memoryCanonical := by simpa using h.memoryCanonical
  pcBound := by simpa using h.pcBound
  stackEntries := h.stackEntries_push hsp hw
  faultRecorded := by simpa using h.faultRecorded
  faultOpUnused := by simpa using h.faultOpUnused
  faultOpIllegal := by simpa using h.faultOpIllegal

/-- What `RET` jumps to is a valid entry. -/
theorem State.Inv.top_le (hsp : s.sp.val ≠ 0) : s.top.toNat ≤ 4096 :=
  (h.stackEntries ⟨s.sp.val - 1, by omega⟩ (Nat.sub_lt (by omega) (by omega))).2

end

/-! ### The targets of `PC` -/

theorem State.npc_toNat {s : State} (hpc : s.pc.toNat ≤ 4094) : s.npc.toNat = s.pc.toNat + 2 := by
  unfold State.npc
  bv_omega

theorem zextAddr_toNat (nnn : Addr) : (zextAddr nnn).toNat = nnn.toNat := by
  simp [zextAddr]; omega

theorem zextAddr_le (nnn : Addr) : (zextAddr nnn).toNat ≤ 0x10FE := by
  have := nnn.isLt
  rw [zextAddr_toNat]
  omega

/-- The largest target of `JP V0,addr` is 0xFFF + 0xFF (R104). -/
theorem jpV0_target_le (nnn : Addr) (b : Byte) : (zextAddr nnn + zextByte b).toNat ≤ 0x10FE := by
  have := nnn.isLt
  have := b.isLt
  have hb : (zextByte b).toNat = b.toNat := by simp [zextByte]; omega
  rw [BitVec.toNat_add, zextAddr_toNat, hb]
  omega

theorem State.Inv.advance {s : State} (h : s.Inv) (hpc : s.pc.toNat ≤ 4094) : s.advance.Inv :=
  h.jump (by rw [State.npc_toNat hpc]; omega)

theorem State.Inv.skipWhen {s : State} (h : s.Inv) (hpc : s.pc.toNat ≤ 4094) (c : Bool) : (s.skipWhen c).Inv := by
  have hn := State.npc_toNat hpc
  refine h.jump ?_
  split
  · bv_omega
  · omega

/-- The two instructions that store: a checked range, then the advance (R143, R144). -/
theorem State.Inv.storeBytes_advance {s : State} (h : s.Inv) (hpc : s.pc.toNat ≤ 4094) {a n : Nat} {bs : List Byte}
    (hr : rangeInBounds a n = true) (hn : bs.length = n) : (s.storeBytes a bs).advance.Inv := by
  obtain h0 | hle := (rangeInBounds_iff a n).mp hr
  · obtain rfl := List.eq_nil_of_length_eq_zero (hn.trans h0)
    exact h.advance hpc
  · exact (h.storeBytes (hn ▸ hle)).advance (by simpa using hpc)

/-! ### Every instruction keeps the invariant -/

section
variable {s : State} (h : s.Inv) (hrun : s.run = .running) (hpc : s.pc.toNat ≤ 4094)
include h hrun

theorem State.Inv.raise_of_running {f : FaultCode} (hf : f ≠ .noFault ∧ f ≠ .invalidOpcode) : (s.raise f).Inv :=
  h.raise (by rw [hrun]; decide) hf.1 hf.2

include hpc

theorem State.Inv.skipOnKey (x : Reg) (wanted : Bool) : (Machine.skipOnKey x wanted s).Inv := by
  rw [skipOnKey_eq]
  exact iteInduction (fun _ => State.Inv.skipWhen (s := s.keysTaken) (h.untracked ..) hpc _)
    (fun _ => h.raise_of_running hrun (by decide))

theorem State.Inv.afterInstr : ∀ i : Instr, (s.afterInstr i).Inv
  | .ret => iteInduction (fun _ => h.raise_of_running hrun (by decide))
      (fun hsp => h.pop.jump (Nat.le_trans (h.top_le hsp) (by decide)))
  | .call nnn => iteInduction (fun _ => h.raise_of_running hrun (by decide))
      (fun hsp => (h.push (Nat.lt_of_le_of_ne (Nat.le_of_lt_succ s.sp.isLt) hsp)
        (by rw [State.npc_toNat hpc]; omega)).jump (zextAddr_le nnn))
  | .jp nnn => h.jump (zextAddr_le nnn)
  | .jpV0Addr nnn => h.jump (jpV0_target_le nnn _)
  | .seVxKk _ _ | .sneVxKk _ _ | .seVxVy _ _ | .sneVxVy _ _ => h.skipWhen hpc _
  | .skpVx x => h.skipOnKey hrun hpc x true
  | .sknpVx x => h.skipOnKey hrun hpc x false
  | .cls | .sys _ | .ldVxKk _ _ | .addVxKk _ _ | .ldVxVy _ _ | .orVxVy _ _ | .andVxVy _ _ | .xorVxVy _ _
  | .addVxVy _ _ | .subVxVy _ _ | .shrVx _ _ | .subnVxVy _ _ | .shlVx _ _ | .rndVxKk _ _ | .ldIAddr _ | .addIVx _
  | .ldVxDt _ | .ldDtVx _ | .ldStVx _ => State.Inv.advance (h.untracked ..) hpc
  | .ldVxK _ => State.Inv.advance
      ((h.setRun (r := .waiting) (by rw [hrun]; decide) (by decide)).untracked ..) hpc
  | .ldFVx _ => iteInduction (fun _ => h.raise_of_running hrun (by decide))
      (fun _ => State.Inv.advance (h.untracked ..) hpc)
  | .ldBVx _ => iteInduction (fun hr => h.storeBytes_advance hpc hr (length_bcdDigits _))
      (fun _ => h.raise_of_running hrun (by decide))
  | .ldMemVx x => iteInduction (fun hr => h.storeBytes_advance hpc hr (s.length_regsUpTo x))
      (fun _ => h.raise_of_running hrun (by decide))
  | .ldVxMem _ | .drwVxVyN _ _ _ => iteInduction (fun _ => State.Inv.advance (h.untracked ..) hpc)
      (fun _ => h.raise_of_running hrun (by decide))

end


/-! ### A step and the operations of the host -/

/-- Settles O50: each of the four things a step can do keeps the invariant. -/
theorem everyStepKeepsTheInvariant : Obligations.EveryStepKeepsTheInvariant := by
  intro s t h hstep
  obtain ⟨-, rfl⟩ | ⟨hrun, -, rfl⟩ | ⟨hrun, -, hop, rfl⟩ | ⟨hrun, hpc, i, -, rfl⟩ := step_next hstep
  · exact h
  · exact h.raise_of_running hrun (by decide)
  · exact h.raiseInvalidOpcode hop
  · exact h.afterInstr hrun hpc i

theorem State.Inv.stepOn {s t : State} {keys : BitVec 16} {rnd : Byte} (h : s.Inv)
    (ht : Machine.stepOn keys rnd s = .next t) : t.Inv := by
  obtain ⟨u, hu, rfl⟩ := stepOn_next ht
  have hin : (s.withInputs keys rnd).Inv := h.untracked ..
  exact State.Inv.untracked (everyStepKeepsTheInvariant _ u hin hu) ..

theorem State.Inv.resume {s : State} (h : s.Inv) (k : Key) : (s.resume k).Inv := by
  unfold State.resume
  split
  case h_1 hrun => exact State.Inv.setRun (h.untracked ..) (by simp [hrun]) (by decide)
  all_goals exact h

theorem State.inv_afterReset (s : State) : s.afterReset.Inv where
  memoryCanonical := Memory.wf_nil _
  pcBound := (by decide : State.reset.pc.toNat ≤ 0x10FE)
  stackEntries := fun k hk => absurd hk (Nat.not_lt_zero _)
  faultRecorded := iff_of_false nofun (not_not.mpr rfl)
  faultOpUnused := fun _ => rfl
  faultOpIllegal := nofun

theorem Session.inv_afterReset (s : State) : Session.Inv ⟨s.afterReset, true⟩ :=
  ⟨s.inv_afterReset, fun _ => rfl⟩

/-- Settles O49: `State.reset` is the state `reset` leaves from itself. -/
theorem resetSatisfiesTheInvariant : Obligations.ResetSatisfiesTheInvariant :=
  ⟨State.reset.inv_afterReset, Session.inv_afterReset State.reset, Session.inv_afterReset⟩

theorem Session.Inv.loadProgram {bytes : List Byte} {r r' : Session} {x : OpResult} (h : r.Inv)
    (hload : Machine.loadProgram bytes r = .next (r', x)) : r'.Inv := by
  obtain ⟨-, -, ⟨-, rfl, -⟩ | ⟨hlen, -, rfl⟩⟩ := loadProgram_next hload
  · exact h
  · exact ⟨h.core.storeBytes (by simp only [Config.progBase, Config.progMax, Config.memSize] at *; omega), nofun⟩

/-- An operation that keeps the invariant of the core and changes nothing `reset` left keeps that of the session. -/
theorem Session.Inv.mapCore {r : Session} (h : r.Inv) {f : State → State} (hf : (f r.core).Inv)
    (hreset : f r.core.afterReset = r.core.afterReset) : Session.Inv { r with core := f r.core } := by
  refine ⟨hf, fun hfresh => ?_⟩
  have hcore : r.core = r.core.afterReset := h.freshIsReset hfresh
  have hsame : f r.core = r.core := by rw [hcore, hreset]
  simpa [hsame] using hcore

/-- Settles O51: the operations one by one. -/
theorem everyOperationKeepsTheInvariant : Obligations.EveryOperationKeepsTheInvariant := by
  intro o r r' x h happly
  cases o
  case reset =>
    cases happly
    exact Session.inv_afterReset r.core
  case loadProgram bytes => exact h.loadProgram happly
  case step keys rnd =>
    obtain ⟨t, ht, rfl, -⟩ := hostStep_next happly
    exact ⟨h.core.stepOn ht, nofun⟩
  case resume k =>
    cases happly
    exact h.mapCore (f := fun s => s.resume k) (h.core.resume k) rfl
  case tickTimers =>
    cases happly
    exact h.mapCore (f := State.tickTimers) (h.core.untracked ..) rfl
  case clearRedraw =>
    cases happly
    exact h.mapCore (f := State.clearRedraw) (h.core.untracked ..) rfl

/-! ### The values `reset` leaves -/

theorem State.byteAt_afterReset (s : State) (a : Nat) : s.afterReset.byteAt a = resetByte s.font a := rfl

/-- Settles O6: the reset state written out, its memory with nothing listed and its screen blank. -/
theorem resetLeavesTheStatedValues : Obligations.ResetLeavesTheStatedValues := by
  refine ⟨rfl, fun s fresh => ⟨s.afterReset, rfl, ?_, rfl, rfl, rfl, rfl, ?_, ?_, ?_, rfl,
    Framebuffer.pixel_blankScreen, rfl, rfl, rfl, rfl, rfl⟩⟩
  · intro r
    exact Vector.getElem_replicate r.isLt
  · intro a
    exact dif_pos a.isLt
  · intro a ha
    exact dif_neg (by omega)
  · intro k
    exact Vector.getElem_replicate k.isLt

end Sys2Proof.Machine
end

section
/-! PROOF. Memory: which instructions write it or `I`, and a store over the coming word (O36, O55). -/

namespace Sys2Proof.Machine

/-! ### Who writes memory and `I` (R43, R147) -/

section
variable {i : Instr}

theorem ldBVx_or_ldMemVx_of_mem_mem_writtenBy (h : .mem ∈ writtenBy i) : ∃ x, i = .ldBVx x ∨ i = .ldMemVx x := by
  cases i <;> simp [writtenBy] at h ⊢

theorem ldIAddr_or_addIVx_or_ldFVx_of_i_mem_writtenBy (h : .i ∈ writtenBy i) :
    (∃ nnn, i = .ldIAddr nnn) ∨ ∃ x, i = .addIVx x ∨ i = .ldFVx x := by
  cases i <;> simp [writtenBy] at h ⊢

end

/-- Settles O55: memory and `I` are written by the instructions listed for them. -/
theorem onlyTheListedInstructionsTouchMemoryAndIndex : Obligations.OnlyTheListedInstructionsTouchMemoryAndIndex := by
  intro i s t h
  obtain rfl := eq_afterInstr h
  exact ⟨fun ⟨a, hne⟩ => ldBVx_or_ldMemVx_of_mem_mem_writtenBy (mem_writtenBy_of_changed fun hsame => hne (hsame a)),
    fun hne => ldIAddr_or_addIVx_or_ldFVx_of_i_mem_writtenBy (mem_writtenBy_of_changed hne)⟩

/-! ### A store over the coming instruction (R40, R49, R144) -/

/-- `LD [I],Vx` with its range inside memory (R144). -/
theorem State.afterInstr_ldMemVx {s : State} {x : Reg} (h : s.i.toNat + x.val < 4096) :
    s.afterInstr (.ldMemVx x) = (s.storeBytes s.i.toNat (s.regsUpTo x)).advance :=
  if_pos ((rangeInBounds_iff _ _).mpr (.inr h))

/-- Settles O36: the two bytes the fetch reads are those of registers `a` and `a + 1`. -/
theorem storeIsSeenByTheNextFetch : Obligations.StoreIsSeenByTheNextFetch := by
  intro x a b s t _ hpc hrange h hab hbx hat
  obtain rfl := eq_afterInstr h
  rw [State.afterInstr_ldMemVx hrange]
  have hnpc : s.npc.toNat = s.i.toNat + a.val := (State.npc_toNat (by omega)).trans hat
  have hnext : s.i.toNat + a.val + 1 = s.i.toNat + b.val := by omega
  have hfits : s.i.toNat + b.val < Config.memSize := Nat.lt_of_le_of_lt (by omega) hrange
  have hhigh := State.byteAt_storeRegs s s.i.toNat x a (by omega)
  have hlow := State.byteAt_storeRegs s s.i.toNat x b hbx
  simp [State.fetch, hnpc, hnext, hfits, hhigh, hlow]

end Sys2Proof.Machine
end

section
/-! SUPPORT. The fields of an encoded word, a word put together again from its fields, and when the decoder rejects a
word, said of its fields (R61, R62, R65, R66). -/

namespace Sys2Proof

/-! ### The fields of a word in each format (R62) -/

section
variable {top : Nat} (htop : top < 16) (nnn : Addr) (x y : Reg) (kk : Byte) {low : Nat}
include htop

@[simp] theorem opTop_encNnn : opTop (encNnn top nnn) = top := by
  rw [opTop_eq, encNnn_toNat top htop]; omega

@[simp] theorem opNnn_encNnn : opNnn (encNnn top nnn) = nnn :=
  BitVec.eq_of_toNat_eq (by rw [opNnn_toNat, encNnn_toNat top htop]; omega)

@[simp] theorem opTop_encXkk : opTop (encXkk top x kk) = top := by
  rw [opTop_eq, encXkk_toNat top htop]; omega

@[simp] theorem opX_encXkk : opX (encXkk top x kk) = x :=
  Fin.ext (by rw [opX_val, encXkk_toNat top htop]; omega)

@[simp] theorem opKk_encXkk : opKk (encXkk top x kk) = kk :=
  BitVec.eq_of_toNat_eq (by rw [opKk_toNat, encXkk_toNat top htop]; omega)

@[simp] theorem opTop_encXy (hlow : low < 16) : opTop (encXy top x y low) = top := by
  rw [opTop_eq, encXy_toNat top htop x y low hlow]; omega

@[simp] theorem opX_encXy (hlow : low < 16) : opX (encXy top x y low) = x :=
  Fin.ext (by rw [opX_val, encXy_toNat top htop x y low hlow]; omega)

@[simp] theorem opY_encXy (hlow : low < 16) : opY (encXy top x y low) = y :=
  Fin.ext (by rw [opY_val, encXy_toNat top htop x y low hlow]; omega)

@[simp] theorem opN_encXy (hlow : low < 16) : opN (encXy top x y low) = ⟨low, hlow⟩ :=
  Fin.ext (by show (opN _).val = low; rw [opN_val, encXy_toNat top htop x y low hlow]; omega)

@[simp] theorem opTop_encX (hlow : low < 256) : opTop (encX top x low) = top := by
  rw [opTop_eq, encX_toNat top htop x low hlow]; omega

@[simp] theorem opX_encX (hlow : low < 256) : opX (encX top x low) = x :=
  Fin.ext (by rw [opX_val, encX_toNat top htop x low hlow]; omega)

@[simp] theorem opKk_encX (hlow : low < 256) : opKk (encX top x low) = BitVec.ofNat 8 low :=
  BitVec.eq_of_toNat_eq (by rw [opKk_toNat, encX_toNat top htop x low hlow, BitVec.toNat_ofNat]; omega)

end

/-! ### A word from its fields -/

section
variable (op : Word)

theorem opTop_lt : opTop op < 16 := (op.extractLsb' 12 4).isLt

theorem encNnn_fields : encNnn (opTop op) (opNnn op) = op :=
  BitVec.eq_of_toNat_eq (by rw [encNnn_toNat _ (opTop_lt op), opTop_eq, opNnn_toNat]; omega)

theorem encXkk_fields : encXkk (opTop op) (opX op) (opKk op) = op :=
  BitVec.eq_of_toNat_eq (by rw [encXkk_toNat _ (opTop_lt op), opTop_eq, opX_val, opKk_toNat]; omega)

theorem encXy_fields : encXy (opTop op) (opX op) (opY op) (opN op).val = op :=
  BitVec.eq_of_toNat_eq (by
    rw [encXy_toNat _ (opTop_lt op) _ _ _ (opN op).isLt, opTop_eq, opX_val, opY_val, opN_val]; omega)

theorem encX_fields : encX (opTop op) (opX op) (opKk op).toNat = op :=
  BitVec.eq_of_toNat_eq (by
    rw [encX_toNat _ (opTop_lt op) _ _ (opKk op).isLt, opTop_eq, opX_val, opKk_toNat]; omega)

end

/-! ### The fields a mask keeps (R64) -/

section
variable (op : Word)

@[simp] theorem opTop_and_F000 : opTop (op &&& 0xF000#16) = opTop op := by
  rw [opTop_eq, opTop_eq, toNat_and_F000]; omega

@[simp] theorem opTop_and_F00F : opTop (op &&& 0xF00F#16) = opTop op := by
  rw [opTop_eq, opTop_eq, toNat_and_F00F]; omega

@[simp] theorem opN_and_F00F : opN (op &&& 0xF00F#16) = opN op :=
  Fin.ext (by rw [opN_val, opN_val, toNat_and_F00F]; omega)

@[simp] theorem opTop_and_F0FF : opTop (op &&& 0xF0FF#16) = opTop op := by
  rw [opTop_eq, opTop_eq, toNat_and_F0FF]; omega

@[simp] theorem opN_and_F0FF : opN (op &&& 0xF0FF#16) = opN op :=
  Fin.ext (by rw [opN_val, opN_val, toNat_and_F0FF]; omega)

@[simp] theorem opKk_and_F0FF : opKk (op &&& 0xF0FF#16) = opKk op :=
  BitVec.eq_of_toNat_eq (by rw [opKk_toNat, opKk_toNat, toNat_and_F0FF]; omega)

end

/-! ### The illegal words by their fields (R66) -/

/-- R66 as the obligation O4 lists it, of the top nibble, the low nibble and the low byte. -/
def IllegalFields (top n kk : Nat) : Prop :=
  (top = 5 ∧ n ≠ 0) ∨ (top = 8 ∧ (n = 8 ∨ n = 9 ∨ n = 0xA ∨ n = 0xB ∨ n = 0xC ∨ n = 0xD ∨ n = 0xF)) ∨
  (top = 9 ∧ n ≠ 0) ∨ (top = 0xE ∧ kk ≠ 0x9E ∧ kk ≠ 0xA1) ∨
  (top = 0xF ∧ kk ≠ 0x07 ∧ kk ≠ 0x0A ∧ kk ≠ 0x15 ∧ kk ≠ 0x18 ∧ kk ≠ 0x1E ∧ kk ≠ 0x29 ∧ kk ≠ 0x33 ∧
    kk ≠ 0x55 ∧ kk ≠ 0x65)

theorem decodeGroup8_eq_error_iff (op : Word) : decodeGroup8 op = .error (.invalidOpcode op) ↔
    IllegalFields 8 (opN op).val (opKk op).toNat := by
  have := (opN op).isLt
  unfold decodeGroup8
  split
  case h_10 =>
    refine iff_of_true rfl (.inr (.inl ⟨rfl, ?_⟩))
    simp only [imp_false] at *
    omega
  all_goals simp [IllegalFields, *]

theorem decodeGroupE_eq_error_iff (op : Word) : decodeGroupE op = .error (.invalidOpcode op) ↔
    IllegalFields 0xE (opN op).val (opKk op).toNat := by
  unfold decodeGroupE
  split_ifs <;> simp_all [IllegalFields, ← BitVec.toNat_inj]

theorem decodeGroupF_eq_error_iff (op : Word) : decodeGroupF op = .error (.invalidOpcode op) ↔
    IllegalFields 0xF (opN op).val (opKk op).toNat := by
  unfold decodeGroupF
  split_ifs <;> simp_all [IllegalFields, ← BitVec.toNat_inj]

/-- The decoder rejects exactly the words whose fields R66 lists. -/
theorem decode_eq_error_iff (op : Word) : decode op = .error (.invalidOpcode op) ↔
    IllegalFields (opTop op) (opN op).val (opKk op).toNat := by
  have htop := opTop_lt op
  unfold decode
  split
  case h_6 h | h_10 h => split_ifs <;> simp [IllegalFields, *]
  case h_9 h => rw [h, decodeGroup8_eq_error_iff]
  case h_15 h => rw [h, decodeGroupE_eq_error_iff]
  case h_16 h => rw [h, decodeGroupF_eq_error_iff]
  case h_17 => simp only [imp_false] at *; omega
  all_goals simp [IllegalFields, *]

end Sys2Proof
end

section
/-! PROOF. Decoder and encoder are inverse to each other, and the illegal words (O1 to O5). -/

namespace Sys2Proof

/-! ### Decoding an encoded instruction -/

/-- The check on `SYS` keeps its word apart from the two fixed words of group 0 (R65). -/
theorem decodeGroup0_encNnn {nnn : Addr} (h : sysAddrOk nnn = true) : decodeGroup0 (encNnn 0 nnn) = .sys nnn := by
  have hword (op : Word) (hop : encNnn 0 nnn = op) : nnn = opNnn op := by rw [← hop, opNnn_encNnn (by decide)]
  obtain ⟨hCls, hRet⟩ : nnn ≠ 0x0E0#12 ∧ nnn ≠ 0x0EE#12 := by simpa [sysAddrOk] using h
  have hNotCls : encNnn 0 nnn ≠ 0x00E0#16 := fun hop => hCls (hword _ hop)
  have hNotRet : encNnn 0 nnn ≠ 0x00EE#16 := fun hop => hRet (hword _ hop)
  simp [decodeGroup0, hNotCls, hNotRet]

theorem decode_encode {i : Instr} (h : i.wellFormed = true) : decode (encode i) = .ok i := by
  cases i
  case cls | ret => decide
  case sys nnn => simp [encode, decode, decodeGroup0_encNnn h]
  case ldVxVy | orVxVy | andVxVy | xorVxVy | addVxVy | subVxVy | shrVx | subnVxVy | shlVx =>
    simp [encode, decode, decodeGroup8]
  case skpVx | sknpVx => simp [encode, decode, decodeGroupE]
  case ldVxDt | ldVxK | ldDtVx | ldStVx | addIVx | ldFVx | ldBVx | ldMemVx | ldVxMem =>
    simp [encode, decode, decodeGroupF]
  all_goals simp [encode, decode]

/-- The decoder of bytes reads the word the first two bytes make and leaves the others (R40). -/
theorem decodeBytes_bytesOfWord_append {op : Word} {i : Instr} (h : decode op = .ok i) (rest : List Byte) :
    decodeBytes (bytesOfWord op ++ rest) = .ok (i, rest) := by
  simp [bytesOfWord, decodeBytes, wordOfBytes_bytesOfWord, h]

/-- Settles O1: each format gives its fields back, and the fields select the row. -/
theorem decodeOfEncodeIsTheInstruction : Obligations.DecodeOfEncodeIsTheInstruction :=
  fun _ h => ⟨decode_encode h, decodeBytes_bytesOfWord_append (decode_encode h)⟩

/-! ### Encoding a decoded word -/

section
variable {op : Word} {i : Instr}

theorem wellFormed_and_encode_of_decodeGroup0 (htop : opTop op = 0) :
    (decodeGroup0 op).wellFormed = true ∧ encode (decodeGroup0 op) = op := by
  have hop : encNnn 0 (opNnn op) = op := htop ▸ encNnn_fields op
  unfold decodeGroup0
  split_ifs with hCls hRet
  · exact ⟨rfl, hCls.symm⟩
  · exact ⟨rfl, hRet.symm⟩
  · have hNotCls : opNnn op ≠ 0x0E0#12 := fun h => hCls (by rw [← hop, h]; rfl)
    have hNotRet : opNnn op ≠ 0x0EE#12 := fun h => hRet (by rw [← hop, h]; rfl)
    exact ⟨by simp [Instr.wellFormed, sysAddrOk, hNotCls, hNotRet], hop⟩

theorem wellFormed_and_encode_of_decodeGroup8 (htop : opTop op = 8) (h : decodeGroup8 op = .ok i) :
    i.wellFormed = true ∧ encode i = op := by
  have hop := encXy_fields op
  unfold decodeGroup8 at h
  split at h <;> cases h <;> exact ⟨rfl, by simpa [encode, *] using hop⟩

theorem wellFormed_and_encode_of_decodeGroupE (htop : opTop op = 0xE) (h : decodeGroupE op = .ok i) :
    i.wellFormed = true ∧ encode i = op := by
  have hop := encX_fields op
  unfold decodeGroupE at h
  split_ifs at h <;> cases h <;> exact ⟨rfl, by simpa [encode, *] using hop⟩

theorem wellFormed_and_encode_of_decodeGroupF (htop : opTop op = 0xF) (h : decodeGroupF op = .ok i) :
    i.wellFormed = true ∧ encode i = op := by
  have hop := encX_fields op
  unfold decodeGroupF at h
  split_ifs at h <;> cases h <;> exact ⟨rfl, by simpa [encode, *] using hop⟩

/-- An arm of the decoder keeps every field of the word, so that the arm's format rebuilds it. -/
theorem wellFormed_and_encode_of_decode (h : decode op = .ok i) : i.wellFormed = true ∧ encode i = op := by
  have hNnn := encNnn_fields op
  have hXkk := encXkk_fields op
  have hXy := encXy_fields op
  unfold decode at h
  split at h
  case h_1 htop => cases h; exact wellFormed_and_encode_of_decodeGroup0 htop
  case h_9 htop => exact wellFormed_and_encode_of_decodeGroup8 htop h
  case h_15 htop => exact wellFormed_and_encode_of_decodeGroupE htop h
  case h_16 htop => exact wellFormed_and_encode_of_decodeGroupF htop h
  case h_17 => cases h
  case h_2 | h_3 | h_11 | h_12 => cases h; exact ⟨rfl, by simpa [encode, *] using hNnn⟩
  case h_4 | h_5 | h_7 | h_8 | h_13 => cases h; exact ⟨rfl, by simpa [encode, *] using hXkk⟩
  case h_14 => cases h; exact ⟨rfl, by simpa [encode, *] using hXy⟩
  case h_6 | h_10 => split_ifs at h; cases h; exact ⟨rfl, by simpa [encode, *] using hXy⟩

end

/-- Settles O2: the word is rebuilt from the fields its arm of the decoder reads. -/
theorem encodeOfDecodeIsTheWord : Obligations.EncodeOfDecodeIsTheWord :=
  fun _ _ h => wellFormed_and_encode_of_decode h

/-! ### The illegal words -/

/-- Settles O4: the fields are the arithmetic the statement writes out. -/
theorem illegalWordsGroupByGroup : Obligations.IllegalWordsGroupByGroup := by
  intro op
  rw [decode_eq_error_iff, opTop_eq, opN_val, opKk_toNat]
  rfl

theorem rowOf_mem_opcodeRows (i : Instr) : rowOf i ∈ opcodeRows := by
  cases i <;> simp [rowOf, opcodeRows]

/-- The word of an instruction is selected by the instruction's row. -/
theorem encode_and_rowOf (i : Instr) : encode i &&& (rowOf i).1 = (rowOf i).2 := by
  open Laws.RowMatch in
  cases i
  exacts [cls, ret, sys _, jp _, call _, seVxKk _ _, sneVxKk _ _, seVxVy _ _, ldVxKk _ _, addVxKk _ _, ldVxVy _ _,
    orVxVy _ _, andVxVy _ _, xorVxVy _ _, addVxVy _ _, subVxVy _ _, shrVx _ _, subnVxVy _ _, shlVx _ _, sneVxVy _ _,
    ldIAddr _, jpV0Addr _, rndVxKk _ _, drwVxVyN _ _ _, skpVx _, sknpVx _, ldVxDt _, ldVxK _, ldDtVx _, ldStVx _,
    addIVx _, ldFVx _, ldBVx _, ldMemVx _, ldVxMem _]

/-- A decoded word is selected by the row of its instruction (R64). -/
theorem and_rowOf_of_decode {op : Word} {i : Instr} (h : decode op = .ok i) : op &&& (rowOf i).1 = (rowOf i).2 := by
  obtain ⟨-, rfl⟩ := wellFormed_and_encode_of_decode h
  exact encode_and_rowOf i

/-- The `match` of every row is itself a legal word. -/
theorem decode_match_ne_error : ∀ row ∈ opcodeRows, decode row.2 ≠ .error (.invalidOpcode row.2) := by
  rw [← List.forall_iff_forall_mem]; decide

/-- A row's mask keeps the fields by which its group tells legal words from illegal ones: the low nibble in groups 5, 8
and 9, the low byte in groups E and F. -/
theorem mask_of_mem_opcodeRows : ∀ row ∈ opcodeRows,
    row.1 = 0xFFFF#16 ∨ (row.1 = 0xF000#16 ∧ opTop row.2 ∉ [5, 8, 9, 0xE, 0xF]) ∨
    (row.1 = 0xF00F#16 ∧ opTop row.2 ∉ [0xE, 0xF]) ∨ row.1 = 0xF0FF#16 := by
  rw [← List.forall_iff_forall_mem]; decide

/-- A row selects no illegal word: legality is decided by fields that the row's mask keeps. -/
theorem decode_ne_error_of_row_selects {op : Word} {row : Word × Word} (hrow : row ∈ opcodeRows)
    (hsel : op &&& row.1 = row.2) : decode op ≠ .error (.invalidOpcode op) := by
  have hmatch := decode_match_ne_error row hrow
  have hmask := mask_of_mem_opcodeRows row hrow
  rw [← hsel] at hmatch hmask
  rw [ne_eq, decode_eq_error_iff] at hmatch ⊢
  obtain hm | ⟨hm, htop⟩ | ⟨hm, htop⟩ | hm := hmask
  · rw [hm] at hmatch
    rwa [show op &&& 0xFFFF#16 = op from BitVec.and_allOnes] at hmatch
  · simp only [hm, opTop_and_F000, List.mem_cons, List.not_mem_nil, or_false, not_or] at htop
    simp [IllegalFields, htop]
  · simp only [hm, opTop_and_F00F, List.mem_cons, List.not_mem_nil, or_false, not_or] at htop
    simpa [IllegalFields, hm, htop] using hmatch
  · simpa [hm] using hmatch

/-- Settles O3: a decoded word lies in its instruction's row, and a row selects no illegal word. -/
theorem illegalWordsAreThoseNoRowSelects : Obligations.IllegalWordsAreThoseNoRowSelects := by
  intro op
  cases hd : decode op with
  | ok i =>
    have hsel := and_rowOf_of_decode hd
    have hrow := rowOf_mem_opcodeRows i
    exact ⟨.inl ⟨i, rfl, hrow, hsel⟩, nofun, fun hnone => absurd hsel (hnone _ hrow)⟩
  | error e =>
    obtain rfl := Machine.decode_error hd
    exact ⟨.inr rfl, fun _ _ hrow hsel => decode_ne_error_of_row_selects hrow hsel hd, fun _ => rfl⟩

/-! ### Words written out -/

/-- Settles O5, by running the decoder on the fourteen words. -/
theorem writtenOutWordsDecode : Obligations.WrittenOutWordsDecode := by
  unfold Obligations.WrittenOutWordsDecode
  decide

end Sys2Proof
end

section
/-! PROOF. The execution cycle: what a step fetches and runs, that it always answers, what a faulting step leaves, and
which instructions read the inputs (O7, O8, O9, O11, O47, O52, O57, O58). -/

namespace Sys2Proof.Machine

/-! ### The fetch and the instruction it gives (R80, R81, R84) -/

/-- Settles O7: a step on a decoded word is the instruction, and so is `exec`. -/
theorem stepRunsTheDecodedInstruction : Obligations.StepRunsTheDecodedInstruction :=
  fun s i hrun hpc hi => (step_of_decode_ok hrun hpc hi).trans (exec_eq_next i s).symm

/-- A word stored at `PC` with its high byte first is the word at `PC` (R40). -/
theorem wordAtPc_storeBytes_bytesOfWord {s : State} {a : Nat} (ha : s.pc.toNat = a) (op : Word) :
    wordAtPc (s.storeBytes a (bytesOfWord op)) = op := by
  subst ha
  have hhigh : (s.storeBytes s.pc.toNat (bytesOfWord op)).byteAt s.pc.toNat = op.extractLsb' 8 8 :=
    State.byteAt_storeBytes_inside s _ 0 (bytesOfWord op) (by simp [bytesOfWord])
  have hlow : (s.storeBytes s.pc.toNat (bytesOfWord op)).byteAt (s.pc.toNat + 1) = op.extractLsb' 0 8 :=
    State.byteAt_storeBytes_inside s _ 1 (bytesOfWord op) (by simp [bytesOfWord])
  rw [wordAtPc, State.storeBytes_pc, hhigh, hlow]
  exact wordOfBytes_bytesOfWord op

/-- `withFetchWord` makes the core ready to fetch: it runs, `PC` allows a fetch, and the word stands at `PC`. -/
theorem State.withFetchWord_ready (s : State) (w : Nat) (hw : w < 65536) :
    (s.withFetchWord 16 w).run = .running ∧ (s.withFetchWord 16 w).pc.toNat ≤ 4094 ∧
      wordAtPc (s.withFetchWord 16 w) = BitVec.ofNat 16 w := by
  unfold State.withFetchWord
  extract_lets a
  have ha : a ≤ 4094 := by
    simp only [a, Config.memSize, Config.progBase]
    split <;> omega
  have hpc : (BitVec.ofNat 16 a).toNat = a := Nat.mod_eq_of_lt (by omega)
  refine ⟨State.storeBytes_run .., ?_, ?_⟩
  · rw [State.storeBytes_pc]
    exact hpc.le.trans ha
  · rw [wordAtPc_storeBytes_bytesOfWord hpc]
    exact congrArg _ (Nat.mod_eq_of_lt hw)

/-- Settles O8: the placed word meets the hypotheses of O7. -/
theorem placedWordIsRunNext : Obligations.PlacedWordIsRunNext := by
  intro s w i hw hi
  obtain ⟨hrun, hpc, hword⟩ := s.withFetchWord_ready w hw
  exact stepRunsTheDecodedInstruction _ i hrun hpc (hword ▸ hi)

/-- Settles O9: the fetch decides, and without a word the step raises `OutOfBounds`. -/
theorem fetchOutsideMemoryFaults : Obligations.FetchOutsideMemoryFaults := by
  intro s hrun
  refine ⟨fun hpc => s.fetch_eq.trans (if_pos hpc), fun hpc => ?_⟩
  have hout : ¬ s.pc.toNat ≤ 4094 := by omega
  exact ⟨s.fetch_eq.trans (if_neg hout), _, step_of_no_fetch hrun hout, rfl, rfl, onlyChanges_raise s _⟩

/-! ### The answer of a step (R80, R87, R88, R176) -/

/-- Settles O52: the four things a step can do are next states. -/
theorem everyStepAnswersANextState : Obligations.EveryStepAnswersANextState := by
  intro s
  by_cases hrun : s.run = .running
  · by_cases hpc : s.pc.toNat ≤ 4094
    · cases hd : decode (wordAtPc s) with
      | ok i => exact ⟨_, step_of_decode_ok hrun hpc hd⟩
      | error e => exact ⟨_, step_of_decode_error hrun hpc hd⟩
    · exact ⟨_, step_of_no_fetch hrun hpc⟩
  · exact ⟨_, step_of_not_running hrun⟩

@[simp] theorem State.withInputsOf_withInputs (s : State) (keys : BitVec 16) (rnd : Byte) :
    (s.withInputs keys rnd).withInputsOf s = s := rfl

/-- Outside `RUNNING` the operation reports the status again and leaves the core as it was (R87, R88). -/
theorem apply_step_of_not_running {s : State} (fresh : Bool) (keys : BitVec 16) (rnd : Byte)
    (h : s.run ≠ .running) : apply (.step keys rnd) ⟨s, fresh⟩ = .next (⟨s, false⟩, s.stepResult) := by
  have hrun : (s.withInputs keys rnd).run ≠ .running := h
  simp only [apply_step, hostStep, stepOn_of_step (step_of_not_running hrun), State.withInputsOf_withInputs]

theorem State.stepResult_of_waiting {s : State} (h : s.run = .waiting) : s.stepResult = .waitingForKey := by
  simp [State.stepResult, h]

theorem State.stepResult_of_faulted {s : State} (h : s.run = .faulted) : s.stepResult = .fault s.fault := by
  simp [State.stepResult, h]

/-- Settles O11: neither state is `RUNNING`, and the result is read off the state. -/
theorem stepOutsideRunningChangesNothing : Obligations.StepOutsideRunningChangesNothing := by
  intro s fresh keys rnd
  have hsame (hnot : s.run ≠ .running) : step s = .next s ∧
      apply (.step keys rnd) ⟨s, fresh⟩ = .next (⟨s, false⟩, s.stepResult) :=
    ⟨step_of_not_running hnot, apply_step_of_not_running fresh keys rnd hnot⟩
  refine ⟨fun hrun => ?_, fun hrun => ?_⟩
  · exact State.stepResult_of_waiting hrun ▸ hsame (by simp [hrun])
  · exact State.stepResult_of_faulted hrun ▸ hsame (by simp [hrun])

/-! ### Faults (R85, R171, R176) -/

theorem onlyChanges_raiseInvalidOpcode (s : State) (op : Word) :
    OnlyChanges [.run, .fault, .faultOp] s (s.raiseInvalidOpcode op) := by
  intro c hc; cases c <;> simp [Same] at hc ⊢

/-- If `t` is faulted, then it is what `s` leaves by raising a fault. -/
def FaultedByRaise (s t : State) : Prop :=
  t.run = .faulted → ∃ f, f ≠ .noFault ∧ t = s.raise f

section
variable {s : State}

theorem faultedByRaise_raise {f : FaultCode} (h : f ≠ .noFault) : FaultedByRaise s (s.raise f) :=
  fun _ => ⟨f, h, rfl⟩

variable (hrun : s.run = .running)
include hrun

theorem faultedByRaise_of_run_eq {t : State} (h : t.run = s.run) : FaultedByRaise s t := by
  intro ht
  rw [h, hrun] at ht
  cases ht

theorem faultedByRaise_skipOnKey (x : Reg) (wanted : Bool) : FaultedByRaise s (skipOnKey x wanted s) := by
  rw [skipOnKey_eq]
  exact iteInduction (fun _ => faultedByRaise_of_run_eq hrun rfl) (fun _ => faultedByRaise_raise (by decide))

/-- An instruction leaves `RUNNING` by `LD Vx,K` or by a fault that it raises. -/
theorem faultedByRaise_afterInstr : ∀ i : Instr, FaultedByRaise s (s.afterInstr i)
  | .ret | .ldFVx _ =>
    iteInduction (fun _ => faultedByRaise_raise (by decide)) (fun _ => faultedByRaise_of_run_eq hrun rfl)
  | .call _ => iteInduction (fun _ => faultedByRaise_raise (by decide))
      (fun _ => faultedByRaise_of_run_eq hrun (s.push_run _))
  | .ldBVx _ | .ldMemVx _ => iteInduction (fun _ => faultedByRaise_of_run_eq hrun (s.storeBytes_run _ _))
      (fun _ => faultedByRaise_raise (by decide))
  | .ldVxMem _ | .drwVxVyN _ _ _ =>
    iteInduction (fun _ => faultedByRaise_of_run_eq hrun rfl) (fun _ => faultedByRaise_raise (by decide))
  | .skpVx x => faultedByRaise_skipOnKey hrun x true
  | .sknpVx x => faultedByRaise_skipOnKey hrun x false
  | .ldVxK _ => nofun
  | .cls | .sys _ | .jp _ | .jpV0Addr _ | .seVxKk _ _ | .sneVxKk _ _ | .seVxVy _ _ | .sneVxVy _ _ | .ldVxKk _ _
  | .addVxKk _ _ | .ldVxVy _ _ | .orVxVy _ _ | .andVxVy _ _ | .xorVxVy _ _ | .addVxVy _ _ | .subVxVy _ _ | .shrVx _ _
  | .subnVxVy _ _ | .shlVx _ _ | .rndVxKk _ _ | .ldIAddr _ | .addIVx _ | .ldVxDt _ | .ldDtVx _ | .ldStVx _ =>
    faultedByRaise_of_run_eq hrun rfl

end

/-- Settles O47: such a step has raised a fault, of the fetch or of the instruction, or `InvalidOpcode`. -/
theorem faultingStepWritesOnlyItsRecord : Obligations.FaultingStepWritesOnlyItsRecord := by
  intro s t hrun hstep ht
  have hraised {f : FaultCode} (hf : f ≠ .noFault) : (s.raise f).fault ≠ .noFault ∧
      OnlyChanges [.run, .fault, .faultOp] s (s.raise f) ∧
      ((s.raise f).fault ≠ .invalidOpcode → (s.raise f).faultOp = s.faultOp) :=
    ⟨hf, (onlyChanges_raise s f).mono (by simp), fun _ => rfl⟩
  obtain ⟨hnot, -⟩ | ⟨-, -, rfl⟩ | ⟨-, -, -, rfl⟩ | ⟨-, -, i, -, rfl⟩ := step_next hstep
  · exact absurd hrun hnot
  · exact hraised (by decide)
  · exact ⟨nofun, onlyChanges_raiseInvalidOpcode s _, fun h => absurd rfl h⟩
  · obtain ⟨f, hf, heq⟩ := faultedByRaise_afterInstr hrun i ht
    exact heq ▸ hraised hf

/-! ### The instructions that can fault, each as its check, its work and its fault -/

section
variable (s : State)

theorem State.afterInstr_ret_eq :
    s.afterInstr .ret = if s.sp.val = 0 then s.raise .stackUnderflow else s.pop.jump s.top := rfl

theorem State.afterInstr_call_eq (nnn : Addr) : s.afterInstr (.call nnn) =
    if s.sp.val = 16 then s.raise .stackOverflow else (s.push s.npc).jump (zextAddr nnn) := rfl

theorem State.afterInstr_ldFVx_eq (x : Reg) : s.afterInstr (.ldFVx x) =
    if (s.reg x).toNat > 15 then s.raise .invalidDigit else (s.setI (glyphAddr (s.reg x))).advance := rfl

theorem State.afterInstr_ldBVx_eq (x : Reg) : s.afterInstr (.ldBVx x) =
    if rangeInBounds s.i.toNat 3 then (s.storeBytes s.i.toNat (bcdDigits (s.reg x))).advance
    else s.raise .outOfBounds := rfl

theorem State.afterInstr_ldMemVx_eq (x : Reg) : s.afterInstr (.ldMemVx x) =
    if rangeInBounds s.i.toNat (x.val + 1) then (s.storeBytes s.i.toNat (s.regsUpTo x)).advance
    else s.raise .outOfBounds := rfl

theorem State.afterInstr_ldVxMem_eq (x : Reg) : s.afterInstr (.ldVxMem x) =
    if rangeInBounds s.i.toNat (x.val + 1) then (s.loadRegsUpTo x s.i.toNat).advance else s.raise .outOfBounds := rfl

theorem State.afterInstr_drwVxVyN_eq (x y : Reg) (n : Fin 16) : s.afterInstr (.drwVxVyN x y n) =
    if rangeInBounds s.i.toNat n.val then
      ((s.present (s.drawn x y n).1).setReg vf (flagByte (s.drawn x y n).2)).advance
    else s.raise .outOfBounds := rfl

end

/-! ### The inputs and their readers (R22, R23, R89) -/

/-- Both inputs replaced. -/
def State.mapInputs (f : InputStream 16 → InputStream 16) (g : InputStream 8 → InputStream 8) (s : State) : State :=
  { s with keyIn := f s.keyIn, rndIn := g s.rndIn }

section
variable (f : InputStream 16 → InputStream 16) (g : InputStream 8 → InputStream 8) (s : State)

theorem State.push_mapInputs (w : Word) : (s.mapInputs f g).push w = (s.push w).mapInputs f g := by
  unfold State.push
  rw [apply_dite (State.mapInputs f g)]
  rfl

theorem State.storeBytes_mapInputs (a : Nat) (bs : List Byte) :
    (s.mapInputs f g).storeBytes a bs = (s.storeBytes a bs).mapInputs f g := by
  induction bs generalizing s a with
  | nil => rfl
  | cons b rest ih => exact ih (s.storeByte a b) (a + 1)

/-- `SKP` and `SKNP` do not read `rnd`. -/
theorem skipOnKey_mapInputs_id (x : Reg) (wanted : Bool) :
    skipOnKey x wanted (s.mapInputs id g) = (skipOnKey x wanted s).mapInputs id g := by
  rw [skipOnKey_eq, skipOnKey_eq, apply_ite (State.mapInputs id g)]
  rfl

variable {f g}

/-- An instruction commutes with a change of the inputs that it does not read. -/
theorem State.afterInstr_mapInputs (i : Instr) (hf : (∀ x, i ≠ .skpVx x ∧ i ≠ .sknpVx x) ∨ f = id)
    (hg : (∀ x kk, i ≠ .rndVxKk x kk) ∨ g = id) :
    (s.mapInputs f g).afterInstr i = (s.afterInstr i).mapInputs f g := by
  cases i
  case ret | call | ldFVx | ldBVx | ldMemVx | ldVxMem | drwVxVyN =>
    simp only [afterInstr_ret_eq, afterInstr_call_eq, afterInstr_ldFVx_eq, afterInstr_ldBVx_eq,
      afterInstr_ldMemVx_eq, afterInstr_ldVxMem_eq, afterInstr_drwVxVyN_eq, apply_ite (State.mapInputs f g),
      State.push_mapInputs, State.storeBytes_mapInputs]
    rfl
  case skpVx x =>
    obtain rfl := hf.resolve_left fun h => (h x).1 rfl
    exact skipOnKey_mapInputs_id g s x true
  case sknpVx x =>
    obtain rfl := hf.resolve_left fun h => (h x).2 rfl
    exact skipOnKey_mapInputs_id g s x false
  case rndVxKk x kk =>
    obtain rfl := hg.resolve_left fun h => h x kk rfl
    rfl
  all_goals rfl

end

/-- Settles O57: only the readers do not commute with a change of the inputs. -/
theorem inputsMatterOnlyToTheirReaders : Obligations.InputsMatterOnlyToTheirReaders := by
  intro i s
  refine ⟨_, exec_eq_next i s, fun hkeys c => ?_, fun hrnd c => ?_⟩
  · exact (exec_eq_next i _).trans
      (congrArg _ (s.afterInstr_mapInputs (f := fun _ => c) (g := id) i (.inl hkeys) (.inr rfl)))
  · exact (exec_eq_next i _).trans
      (congrArg _ (s.afterInstr_mapInputs (f := id) (g := fun _ => c) i (.inr rfl) (.inl hrnd)))

/-! ### The self-jump (R90, decision D19) -/

/-- At a self-jump `PC` allows a fetch and the word decodes to a jump, which leaves any state with this `PC` alone. -/
theorem SelfJump.jumpInPlace {s : State} (h : SelfJump s) :
    s.run = .running ∧ s.pc.toNat ≤ 4094 ∧ ∃ nnn, decode (wordAtPc s) = .ok (.jp nnn) ∧
      ∀ u : State, u.pc = s.pc → u.afterInstr (.jp nnn) = u := by
  obtain ⟨hrun, nnn, hfetch, htarget⟩ := h
  rw [State.fetch_eq, Option.ite_none_right_eq_some, Option.some.injEq] at hfetch
  obtain ⟨hpc, hword⟩ := hfetch
  refine ⟨hrun, hpc, nnn, hword ▸ decode_encode rfl, fun u hu => ?_⟩
  calc u.afterInstr (.jp nnn) = u.jump (zextAddr nnn) := rfl
    _ = u.jump u.pc := by rw [htarget, hu]
    _ = u := rfl

/-- Settles O58: the jump writes to `PC` what `PC` holds. -/
theorem selfJumpYieldsTheSameState : Obligations.SelfJumpYieldsTheSameState := by
  intro s h
  obtain ⟨hrun, hpc, nnn, hd, hself⟩ := h.jumpInPlace
  refine ⟨(step_of_decode_ok hrun hpc hd).trans (congrArg _ (hself s rfl)), fun fresh keys rnd => ?_⟩
  have hinputs : (s.withInputs keys rnd).afterInstr (.jp nnn) = s.withInputs keys rnd := hself _ rfl
  simpa [hinputs] using apply_step_ok fresh hrun hpc hd (keys := keys) (rnd := rnd) (by rw [hinputs]; exact hrun)

end Sys2Proof.Machine
end

section
/-! PROOF. Control transfer: `SYS`, the jumps, and the call stack from `CALL` to `RET` (O12, O13, O14, O15, O16,
O17). -/

namespace Sys2Proof.Machine

/-! ### The call stack (R17) -/

section
variable {s : State}

theorem State.top_eq_getElem {k : Fin 16} (h : s.sp.val = k.val + 1) : s.top = s.stack[k] := by
  simp [State.top, h]

theorem State.top_congr {u : State} (hstack : u.stack = s.stack) (hsp : u.sp = s.sp) : u.top = s.top := by
  simp only [State.top, hstack, hsp]

theorem State.pop_sp {k : Nat} (h : s.sp.val = k + 1) : s.pop.sp.val = k :=
  Nat.sub_eq_of_eq_add h

/-- A push writes the slot `SP` and keeps every other one (R103). -/
theorem State.getElem_push_stack (w : Word) (h : s.sp.val < 16) (k : Fin 16) :
    (s.push w).stack[k] = if k.val = s.sp.val then w else s.stack[k] := by
  simp only [s.push_stack w h, Fin.getElem_fin, Vector.getElem_set, eq_comm]

end

/-! ### The outcomes of `CALL` and `RET` (R101, R103, R173, R174) -/

section
variable {s : State}

theorem tookFault_raise (f : FaultCode) (s : State) : TookFault f s (s.raise f) :=
  ⟨rfl, rfl, onlyChanges_raise s f⟩

theorem exec_call_of_room (nnn : Addr) (h : s.sp.val < 16) :
    exec (.call nnn) s = .next ((s.push s.npc).jump (zextAddr nnn)) := by
  rw [exec_eq_next, State.afterInstr_call_eq, if_neg h.ne]

theorem exec_call_of_full (nnn : Addr) (h : s.sp.val = 16) :
    exec (.call nnn) s = .next (s.raise .stackOverflow) := by
  rw [exec_eq_next, State.afterInstr_call_eq, if_pos h]

theorem exec_ret_of_nonempty (h : s.sp.val ≠ 0) : exec .ret s = .next (s.pop.jump s.top) := by
  rw [exec_eq_next, State.afterInstr_ret_eq, if_neg h]

theorem exec_ret_of_empty (h : s.sp.val = 0) : exec .ret s = .next (s.raise .stackUnderflow) := by
  rw [exec_eq_next, State.afterInstr_ret_eq, if_pos h]

end

/-- Settles O17: the top entry in `u` is the one the call pushed, and the return takes back the call's one level. -/
theorem callThenReturnResumesAfterTheCall : Obligations.CallThenReturnResumesAfterTheCall := by
  intro nnn s t u hroom hcall hstack hsp
  obtain rfl : (s.push s.npc).jump (zextAddr nnn) = t :=
    Host.Outcome.next.inj ((exec_call_of_room nnn hroom).symm.trans hcall)
  have hdepth : u.sp.val = s.sp.val + 1 := (congrArg Fin.val hsp).trans (s.push_sp s.npc hroom)
  have htop : u.top = s.pc + 2 := (State.top_congr hstack hsp).trans (s.push_top s.npc hroom)
  exact ⟨_, exec_ret_of_nonempty (by omega), htop, Fin.ext (State.pop_sp hdepth)⟩

/-- Settles O15: below 16 entries the call is a push and a jump, at 16 the fault. -/
theorem callPushesThePostFetchPc : Obligations.CallPushesThePostFetchPc := by
  intro nnn s
  refine ⟨fun hroom => ⟨_, exec_call_of_room nnn hroom, zextAddr_toNat nnn, s.push_sp s.npc hroom,
    State.getElem_push_stack s.npc hroom, ?_⟩, fun hfull => ⟨_, exec_call_of_full nnn hfull, tookFault_raise _ s⟩⟩
  exact ((onlyChanges_push s s.npc).trans (onlyChanges_jump _ _)).mono (by simp)

/-- Settles O16: with an entry on the stack the return is a pop and a jump, without one the fault. -/
theorem returnPopsTheTopEntry : Obligations.ReturnPopsTheTopEntry := by
  intro s
  refine ⟨fun k hk => ⟨_, exec_ret_of_nonempty (by omega), State.top_eq_getElem hk, State.pop_sp hk, ?_⟩,
    fun hempty => ⟨_, exec_ret_of_empty hempty, tookFault_raise _ s⟩⟩
  exact ((onlyChanges_pop s).trans (onlyChanges_jump _ _)).mono (by simp)

/-! ### `SYS` and the jumps (R100, R102, R104) -/

/-- Settles O12: `SYS` is the advance. -/
theorem sysOnlyAdvances : Obligations.SysOnlyAdvances :=
  fun _ s => ⟨_, exec_eq_next _ s, rfl, onlyChanges_advance s⟩

/-- Settles O13: the zero-extension keeps the number. -/
theorem jumpGoesToItsAddress : Obligations.JumpGoesToItsAddress :=
  fun nnn s => ⟨_, exec_eq_next _ s, zextAddr_toNat nnn, onlyChanges_jump s _⟩

theorem zextByte_toNat (b : Byte) : (zextByte b).toNat = b.toNat := by
  simp [zextByte]; omega

/-- The sum of `JP V0,addr` has no carry out of 16 bits (R104). -/
theorem jpV0_target_toNat (nnn : Addr) (b : Byte) :
    (zextAddr nnn + zextByte b).toNat = nnn.toNat + b.toNat := by
  have := nnn.isLt
  have := b.isLt
  rw [BitVec.toNat_add, zextAddr_toNat, zextByte_toNat]
  omega

/-- Settles O14: the sum fits in `PC`. -/
theorem jumpWithOffsetAddsV0 : Obligations.JumpWithOffsetAddsV0 :=
  fun nnn s => ⟨_, exec_eq_next _ s, jpV0_target_toNat nnn _, onlyChanges_jump s _⟩

end Sys2Proof.Machine
end

section
/-! PROOF. The conditional skips: what each of the six can do, and that `PC` grows by 4 or by 2 (O18, O19, O20,
O21). -/

namespace Sys2Proof.Machine

/-! ### What a skip writes to `PC` (R86) -/

section
variable (s : State)

theorem State.skipWhen_beq_pc (a b : Byte) :
    (s.skipWhen (a == b)).pc = if a = b then s.pc + 4 else s.pc + 2 := by
  simp only [s.skipWhen_pc_eq, beq_iff_eq]

theorem State.skipWhen_bne_pc (a b : Byte) :
    (s.skipWhen (a != b)).pc = if a = b then s.pc + 2 else s.pc + 4 := by
  simp only [s.skipWhen_pc_eq, bne_iff_ne, ite_not, ne_eq]

/-- Where a fetch is possible neither sum wraps. -/
theorem State.skipWhen_pc_toNat (hpc : s.pc.toNat ≤ 4094) (c : Bool) :
    (s.skipWhen c).pc.toNat = s.pc.toNat + 4 ∨ (s.skipWhen c).pc.toNat = s.pc.toNat + 2 := by
  rw [s.skipWhen_pc_eq]
  split
  · left; bv_omega
  · right; bv_omega

end

/-! ### `SKP` and `SKNP` (R114, R115, decision D7) -/

section
variable {s : State} {x : Reg} (wanted : Bool)

theorem skipOnKey_of_key (hx : (s.reg x).toNat ≤ 15) :
    skipOnKey x wanted s = s.keysTaken.skipWhen (s.keys.getLsbD (s.reg x).toNat == wanted) := by
  rw [skipOnKey_eq, if_pos hx]

theorem skipOnKey_of_no_key (hx : 15 < (s.reg x).toNat) : skipOnKey x wanted s = s.raise .outOfBounds := by
  rw [skipOnKey_eq, if_neg hx.not_ge]

theorem skipOnKey_pc (hx : (s.reg x).toNat ≤ 15) :
    (skipOnKey x wanted s).pc = if s.keys.getLsbD (s.reg x).toNat = wanted then s.pc + 4 else s.pc + 2 := by
  simp only [skipOnKey_of_key wanted hx, State.skipWhen_pc_eq, State.keysTaken_pc, beq_iff_eq]

theorem skipOnKey_keyIn (hx : (s.reg x).toNat ≤ 15) : (skipOnKey x wanted s).keyIn = s.keyIn.advance := by
  rw [skipOnKey_of_key wanted hx, State.skipWhen_keyIn, State.keysTaken_keyIn]

theorem onlyChanges_skipOnKey_of_key (hx : (s.reg x).toNat ≤ 15) :
    OnlyChanges [.pc, .keyIn] s (skipOnKey x wanted s) := by
  rw [skipOnKey_of_key wanted hx]
  exact ((onlyChanges_keysTaken s).trans (onlyChanges_skipWhen _ _)).mono (by simp)

theorem tookFault_skipOnKey (hx : 15 < (s.reg x).toNat) : TookFault .outOfBounds s (skipOnKey x wanted s) := by
  rw [skipOnKey_of_no_key wanted hx]
  exact tookFault_raise _ s

/-- A key skip advances, or it names no key and faults. -/
theorem skipOnKey_advances_or_faults (hpc : s.pc.toNat ≤ 4094) (x : Reg) :
    (((skipOnKey x wanted s).pc.toNat = s.pc.toNat + 4 ∨ (skipOnKey x wanted s).pc.toNat = s.pc.toNat + 2) ∧
      OnlyChanges [.pc, .keyIn] s (skipOnKey x wanted s)) ∨
    (15 < (s.reg x).toNat ∧ TookFault .outOfBounds s (skipOnKey x wanted s)) := by
  obtain hx | hx := le_or_gt (s.reg x).toNat 15
  · refine .inl ⟨?_, onlyChanges_skipOnKey_of_key wanted hx⟩
    rw [skipOnKey_of_key wanted hx]
    exact s.keysTaken.skipWhen_pc_toNat hpc _
  · exact .inr ⟨hx, tookFault_skipOnKey wanted hx⟩

end

/-! ### The six instructions -/

/-- Settles O21: the register skips always advance, the key skips advance or name no key. -/
theorem skipsAdvanceByFourOrTwo : Obligations.SkipsAdvanceByFourOrTwo := by
  intro i s t hskip hpc h
  obtain rfl := eq_afterInstr h
  cases i
  case seVxKk | sneVxKk | seVxVy | sneVxVy =>
    exact .inl ⟨s.skipWhen_pc_toNat hpc _, (onlyChanges_skipWhen s _).mono (by simp)⟩
  case skpVx x => exact (skipOnKey_advances_or_faults true hpc x).imp_right fun hfault => ⟨x, .inl rfl, hfault⟩
  case sknpVx x => exact (skipOnKey_advances_or_faults false hpc x).imp_right fun hfault => ⟨x, .inr rfl, hfault⟩
  all_goals cases hskip

/-- Settles O18: the comparison with the immediate is the condition of the skip. -/
theorem skipOnImmediate : Obligations.SkipOnImmediate :=
  fun _ _ s => ⟨⟨_, exec_eq_next _ s, s.skipWhen_beq_pc _ _, onlyChanges_skipWhen s _⟩,
    ⟨_, exec_eq_next _ s, s.skipWhen_bne_pc _ _, onlyChanges_skipWhen s _⟩⟩

/-- Settles O19: the comparison of the registers is the condition of the skip. -/
theorem skipOnRegisters : Obligations.SkipOnRegisters :=
  fun _ _ s => ⟨⟨_, exec_eq_next _ s, s.skipWhen_beq_pc _ _, onlyChanges_skipWhen s _⟩,
    ⟨_, exec_eq_next _ s, s.skipWhen_bne_pc _ _, onlyChanges_skipWhen s _⟩⟩

/-- Settles O20: `SKP` wants the bit of `KEYS` set and `SKNP` wants it clear, and an index above 15 names no bit. The
name stands under `Skips`, since `skipOnKey` is a function of the model. -/
theorem Skips.skipOnKey : Obligations.SkipOnKey := by
  intro x s
  refine ⟨fun hx => ⟨?_, ?_⟩, fun hx => ⟨?_, ?_⟩⟩
  · exact ⟨_, exec_eq_next _ s, skipOnKey_pc true hx, skipOnKey_keyIn true hx, onlyChanges_skipOnKey_of_key true hx⟩
  · have hpc := skipOnKey_pc false hx
    simp only [← Bool.not_eq_true, ite_not] at hpc
    exact ⟨_, exec_eq_next _ s, hpc, skipOnKey_keyIn false hx, onlyChanges_skipOnKey_of_key false hx⟩
  · exact ⟨_, exec_eq_next _ s, tookFault_skipOnKey true hx⟩
  · exact ⟨_, exec_eq_next _ s, tookFault_skipOnKey false hx⟩

end Sys2Proof.Machine
end

section
/-! PROOF. Register and ALU instructions: the value written, the flag of the five that set one, and the frame (O22,
O23, O24, O25, O26, O27). -/

namespace Sys2Proof.Machine

/-! ### The two shapes of an ALU instruction: a result, or a result and a flag (R11, R85) -/

section
variable (s : State) (x : Reg) (b : Byte) (f : Bool)

theorem State.reg_setReg_self : (s.setReg x b).reg x = b := by
  rw [State.reg_setReg, if_pos rfl]

/-- `VF` holds the flag even when it is the destination (conflict C3). -/
theorem State.reg_setResultAndFlag_vf : (s.setResultAndFlag x b f).reg vf = flagByte f := by
  rw [State.reg_setResultAndFlag, if_pos rfl]

theorem State.reg_setResultAndFlag_self (hx : x ≠ vf) : (s.setResultAndFlag x b f).reg x = b := by
  rw [State.reg_setResultAndFlag, if_neg hx, if_pos rfl]

theorem setReg_advance_frame : (s.setReg x b).advance.pc = s.pc + 2 ∧
    RegsKeptBut [x] s (s.setReg x b).advance ∧ OnlyChanges [.v, .pc] s (s.setReg x b).advance :=
  ⟨rfl, regsKept_setReg s x b, (onlyChanges_setReg s x b).trans (onlyChanges_advance _)⟩

theorem setResultAndFlag_advance_frame : (s.setResultAndFlag x b f).advance.pc = s.pc + 2 ∧
    RegsKeptBut [x, vf] s (s.setResultAndFlag x b f).advance ∧
    OnlyChanges [.v, .pc] s (s.setResultAndFlag x b f).advance :=
  ⟨rfl, regsKept_setResultAndFlag s x b f, (onlyChanges_setResultAndFlag s x b f).trans (onlyChanges_advance _)⟩

end

/-! ### The bytes written, as numbers (R120) -/

section
variable (a b : Byte)

theorem flagByte_decide (p : Prop) [Decidable p] : flagByte (decide p) = if p then 1 else 0 := by
  simp only [flagByte, decide_eq_true_eq]

theorem flagByte_toNat (f : Bool) : (flagByte f).toNat = f.toNat := by
  cases f <;> rfl

theorem lowBit_toNat : (lowBit a).toNat = a.toNat % 2 := by
  rw [lowBit, BitVec.getLsbD, Nat.toNat_testBit, pow_zero, Nat.div_one]

theorem highBit_toNat : (highBit a).toNat = a.toNat / 128 := by
  have := a.isLt
  rw [highBit, BitVec.getLsbD, Nat.toNat_testBit]
  omega

theorem byte_sub_toNat : (a - b).toNat = (a.toNat + 256 - b.toNat) % 256 := by
  bv_omega

theorem byte_shiftRight_one_toNat : (a >>> 1).toNat = a.toNat / 2 := by
  rw [BitVec.toNat_ushiftRight, Nat.shiftRight_eq_div_pow, pow_one]

theorem byte_shiftLeft_one_toNat : (a <<< 1).toNat = a.toNat * 2 % 256 := by
  rw [BitVec.toNat_shiftLeft, Nat.shiftLeft_eq, pow_one]

end

/-! ### A result and no flag (R121, R122, R123, R124, R125, R126, R132) -/

/-- Settles O22: the one register written holds the immediate, or the sum with it. -/
theorem immediateLoadAndAdd : Obligations.ImmediateLoadAndAdd := by
  intro x kk s
  refine ⟨⟨_, exec_eq_next _ s, ?_, setReg_advance_frame s x _⟩,
    ⟨_, exec_eq_next _ s, ?_, setReg_advance_frame s x _⟩⟩
  · exact s.reg_setReg_self x kk
  · exact (congrArg BitVec.toNat (s.reg_setReg_self x _)).trans (BitVec.toNat_add _ kk)

/-- Settles O23: the one register written holds the source, or the operation on each bit. -/
theorem registerMovesAndLogic : Obligations.RegisterMovesAndLogic := by
  intro x y s
  refine ⟨⟨_, exec_eq_next _ s, ?_, setReg_advance_frame s x _⟩,
    ⟨_, exec_eq_next _ s, fun k => ?_, setReg_advance_frame s x _⟩,
    ⟨_, exec_eq_next _ s, fun k => ?_, setReg_advance_frame s x _⟩,
    ⟨_, exec_eq_next _ s, fun k => ?_, setReg_advance_frame s x _⟩⟩
  · exact s.reg_setReg_self x (s.reg y)
  · exact (congrArg (BitVec.getLsbD · k) (s.reg_setReg_self x _)).trans BitVec.getLsbD_or
  · exact (congrArg (BitVec.getLsbD · k) (s.reg_setReg_self x _)).trans BitVec.getLsbD_and
  · exact (congrArg (BitVec.getLsbD · k) (s.reg_setReg_self x _)).trans BitVec.getLsbD_xor

/-- Settles O27: the draw is taken before the masked byte is written, and neither touches the other. -/
theorem randomIsMaskedDraw : Obligations.RandomIsMaskedDraw := by
  intro x kk s
  refine ⟨_, exec_eq_next _ s, fun k => ?_, rfl, rfl, regsKept_afterInstr s (.rndVxKk x kk),
    (onlyChanges_afterInstr s (.rndVxKk x kk)).mono (by simp [writtenBy])⟩
  exact (congrArg (BitVec.getLsbD · k) (s.rndTaken.reg_setReg_self x _)).trans BitVec.getLsbD_and

/-! ### A result and a flag (R127, R128, R129, R130, R131) -/

/-- Settles O24: the flag is whether the sum leaves the byte. -/
theorem addSetsCarry : Obligations.AddSetsCarry := by
  intro x y s
  refine ⟨_, exec_eq_next _ s, ?_, fun hx => ?_, setResultAndFlag_advance_frame s x _ _⟩
  · exact (s.reg_setResultAndFlag_vf x _ _).trans (flagByte_decide _)
  · exact (congrArg BitVec.toNat (s.reg_setResultAndFlag_self x _ _ hx)).trans (BitVec.toNat_add _ _)

/-- Settles O25: `SUBN` is `SUB` with minuend and subtrahend exchanged. -/
theorem subtractSetsNotBorrow : Obligations.SubtractSetsNotBorrow := by
  intro x y s
  refine ⟨⟨_, exec_eq_next _ s, ?_, fun hx => ?_, setResultAndFlag_advance_frame s x _ _⟩,
    ⟨_, exec_eq_next _ s, ?_, fun hx => ?_, setResultAndFlag_advance_frame s x _ _⟩⟩
  · exact (s.reg_setResultAndFlag_vf x _ _).trans (flagByte_decide _)
  · exact (congrArg BitVec.toNat (s.reg_setResultAndFlag_self x _ _ hx)).trans (byte_sub_toNat _ _)
  · exact (s.reg_setResultAndFlag_vf x _ _).trans (flagByte_decide _)
  · exact (congrArg BitVec.toNat (s.reg_setResultAndFlag_self x _ _ hx)).trans (byte_sub_toNat _ _)

/-- Settles O26: both shifts read `V[x]` alone, for the result and for the bit shifted out. -/
theorem shiftsSetTheBitShiftedOut : Obligations.ShiftsSetTheBitShiftedOut := by
  intro x y s
  obtain ⟨hpcR, hregsR, hframeR⟩ := setResultAndFlag_advance_frame s x (s.reg x >>> 1) (lowBit (s.reg x))
  obtain ⟨hpcL, hregsL, hframeL⟩ := setResultAndFlag_advance_frame s x (s.reg x <<< 1) (highBit (s.reg x))
  refine ⟨⟨_, exec_eq_next _ s, ?_, fun hx => ?_, hpcR, hregsR, hframeR, fun _ => rfl⟩,
    ⟨_, exec_eq_next _ s, ?_, fun hx => ?_, hpcL, hregsL, hframeL, fun _ => rfl⟩⟩
  · exact (congrArg BitVec.toNat (s.reg_setResultAndFlag_vf x _ _)).trans ((flagByte_toNat _).trans (lowBit_toNat _))
  · exact (congrArg BitVec.toNat (s.reg_setResultAndFlag_self x _ _ hx)).trans (byte_shiftRight_one_toNat _)
  · exact (congrArg BitVec.toNat (s.reg_setResultAndFlag_vf x _ _)).trans ((flagByte_toNat _).trans (highBit_toNat _))
  · exact (congrArg BitVec.toNat (s.reg_setResultAndFlag_self x _ _ hx)).trans (byte_shiftLeft_one_toNat _)

end Sys2Proof.Machine
end

section
/-! PROOF. The index register and memory: `I` loaded, added to and pointed at a glyph, the digits and the registers
stored, the registers loaded, and the round trip through memory (O29, O30, O31, O32, O33, O34, O35). -/

namespace Sys2Proof.Machine

/-! ### Writing `I` (R140, R141, R142) -/

theorem setI_advance_frame (s : State) (w : Word) :
    (s.setI w).advance.pc = s.pc + 2 ∧ OnlyChanges [.i, .pc] s (s.setI w).advance :=
  ⟨rfl, (onlyChanges_setI s w).trans (onlyChanges_advance _)⟩

/-- Settles O29: the zero-extension keeps the number. -/
theorem loadIndex : Obligations.LoadIndex :=
  fun nnn s => ⟨_, exec_eq_next _ s, zextAddr_toNat nnn, setI_advance_frame s _⟩

theorem add_zextByte_toNat (w : Word) (b : Byte) : (w + zextByte b).toNat = (w.toNat + b.toNat) % 65536 := by
  rw [BitVec.toNat_add, zextByte_toNat]

/-- Settles O30: the sum is that of 16-bit words. -/
theorem addToIndexWrapsAtSixteenBits : Obligations.AddToIndexWrapsAtSixteenBits :=
  fun _ s => ⟨_, exec_eq_next _ s, add_zextByte_toNat s.i _, setI_advance_frame s _⟩

/-- No glyph address exceeds 255 * 5, so none wraps. -/
theorem glyphAddr_toNat (digit : Byte) : (glyphAddr digit).toNat = digit.toNat * 5 :=
  Nat.mod_eq_of_lt (by have := digit.isLt; omega)

/-- Settles O31: a digit has its glyph, a value above 15 faults. -/
theorem loadGlyphAddress : Obligations.LoadGlyphAddress := by
  intro x s
  refine ⟨fun hx => ⟨(s.setI (glyphAddr (s.reg x))).advance, ?_, glyphAddr_toNat _, setI_advance_frame s _⟩,
    fun hx => ⟨s.raise .invalidDigit, ?_, tookFault_raise _ s⟩⟩
  · rw [exec_eq_next, State.afterInstr_ldFVx_eq, if_neg hx.not_gt]
  · rw [exec_eq_next, State.afterInstr_ldFVx_eq, if_pos hx]

/-! ### The check of the range (R41, R172) -/

theorem rangeInBounds_succ_iff (base last : Nat) : rangeInBounds base (last + 1) = true ↔ base + last < 4096 :=
  (rangeInBounds_iff base (last + 1)).trans (or_iff_right last.succ_ne_zero)

section
variable {s : State} {x : Reg}

theorem exec_ldBVx_of_inside (h : s.i.toNat ≤ 4093) :
    exec (.ldBVx x) s = .next (s.storeBytes s.i.toNat (bcdDigits (s.reg x))).advance := by
  rw [exec_eq_next, State.afterInstr_ldBVx_eq, if_pos ((rangeInBounds_succ_iff _ 2).mpr (by omega))]

theorem exec_ldBVx_of_outside (h : 4094 ≤ s.i.toNat) : exec (.ldBVx x) s = .next (s.raise .outOfBounds) := by
  rw [exec_eq_next, State.afterInstr_ldBVx_eq, if_neg ((rangeInBounds_succ_iff _ 2).not.mpr (by omega))]

theorem exec_ldMemVx_of_inside (h : s.i.toNat + x.val < 4096) :
    exec (.ldMemVx x) s = .next (s.storeBytes s.i.toNat (s.regsUpTo x)).advance := by
  rw [exec_eq_next, State.afterInstr_ldMemVx h]

theorem exec_ldMemVx_of_outside (h : 4096 ≤ s.i.toNat + x.val) :
    exec (.ldMemVx x) s = .next (s.raise .outOfBounds) := by
  rw [exec_eq_next, State.afterInstr_ldMemVx_eq, if_neg ((rangeInBounds_succ_iff _ _).not.mpr h.not_gt)]

theorem exec_ldVxMem_of_inside (h : s.i.toNat + x.val < 4096) :
    exec (.ldVxMem x) s = .next (s.loadRegsUpTo x s.i.toNat).advance := by
  rw [exec_eq_next, State.afterInstr_ldVxMem_eq, if_pos ((rangeInBounds_succ_iff _ _).mpr h)]

theorem exec_ldVxMem_of_outside (h : 4096 ≤ s.i.toNat + x.val) :
    exec (.ldVxMem x) s = .next (s.raise .outOfBounds) := by
  rw [exec_eq_next, State.afterInstr_ldVxMem_eq, if_neg ((rangeInBounds_succ_iff _ _).not.mpr h.not_gt)]

end

/-! ### Storing (R143, R144) -/

section
variable (s : State) (a : Nat)

theorem storeBytes_advance_frame {bs : List Byte} {n : Nat} (hn : bs.length = n) :
    BytesKeptOutside a n s (s.storeBytes a bs).advance ∧ (s.storeBytes a bs).advance.pc = s.pc + 2 ∧
      OnlyChanges [.mem, .pc] s (s.storeBytes a bs).advance :=
  ⟨fun b hb => s.byteAt_storeBytes_outside a b bs (hn ▸ hb), s.storeBytes_npc a bs,
    (onlyChanges_storeBytes s a bs).trans (onlyChanges_advance _)⟩

/-- Each digit is below 256, so its byte is the digit. -/
theorem State.byteAt_storeDigits (b : Byte) :
    ((s.storeBytes a (bcdDigits b)).byteAt a).toNat = b.toNat / 100 ∧
    ((s.storeBytes a (bcdDigits b)).byteAt (a + 1)).toNat = b.toNat / 10 % 10 ∧
    ((s.storeBytes a (bcdDigits b)).byteAt (a + 2)).toNat = b.toNat % 10 := by
  have hb := b.isLt
  have hdigit (k : Fin 3) : (s.storeBytes a (bcdDigits b)).byteAt (a + k.val) = (bcdDigits b)[k.val] :=
    s.byteAt_storeBytes_inside a k.val (bcdDigits b) k.isLt
  refine ⟨(congrArg BitVec.toNat (hdigit 0)).trans ?_, (congrArg BitVec.toNat (hdigit 1)).trans ?_,
    (congrArg BitVec.toNat (hdigit 2)).trans ?_⟩
  all_goals exact Nat.mod_eq_of_lt (by omega)

end

/-- Settles O32: the three digits are stored while `I + 2` is inside memory. -/
theorem storeDecimalDigits : Obligations.StoreDecimalDigits := by
  intro x s
  refine ⟨fun hin => ?_, fun hout => ⟨_, exec_ldBVx_of_outside hout, tookFault_raise _ s⟩⟩
  obtain ⟨hhundreds, htens, hones⟩ := s.byteAt_storeDigits s.i.toNat (s.reg x)
  exact ⟨_, exec_ldBVx_of_inside hin, hhundreds, htens, hones,
    storeBytes_advance_frame s _ (length_bcdDigits _)⟩

/-- Settles O33: the registers are stored while `I + x` is inside memory. -/
theorem storeRegisterRange : Obligations.StoreRegisterRange :=
  fun x s => ⟨fun hin => ⟨_, exec_ldMemVx_of_inside hin, s.byteAt_storeRegs _ x,
      storeBytes_advance_frame s _ (s.length_regsUpTo x)⟩,
    fun hout => ⟨_, exec_ldMemVx_of_outside hout, tookFault_raise _ s⟩⟩

/-! ### Loading (R145, R146) -/

/-- Settles O34: the registers are loaded while `I + x` is inside memory. -/
theorem loadRegisterRange : Obligations.LoadRegisterRange :=
  fun x s => ⟨fun hin => ⟨_, exec_ldVxMem_of_inside hin, fun k => s.reg_loadRegsUpTo x k _, rfl,
      (onlyChanges_loadRegsUpTo s x _).trans (onlyChanges_advance _)⟩,
    fun hout => ⟨_, exec_ldVxMem_of_outside hout, tookFault_raise _ s⟩⟩

/-- Settles O35: the store keeps `I` and the registers, so the load reads the bytes stored (O33, O34). -/
theorem storeThenLoadBringsRegistersBack : Obligations.StoreThenLoadBringsRegistersBack := by
  intro x s t hin hstore
  obtain ⟨t', hstore', hbytes, -, -, hframe⟩ := (storeRegisterRange x s).1 hin
  obtain rfl : t' = t := Host.Outcome.next.inj (hstore'.symm.trans hstore)
  have hi : t'.i = s.i := hframe .i (by decide)
  have hregs : ∀ r, t'.reg r = s.reg r := hframe .v (by decide)
  obtain ⟨u, hload, hloaded, -, hframe'⟩ := (loadRegisterRange x t').1 (hi ▸ hin)
  have hi' : u.i = t'.i := hframe' .i (by decide)
  have hmem : ∀ a, u.byteAt a = t'.byteAt a := hframe' .mem (by decide)
  refine ⟨u, hload, fun r => ?_, hi, hi'.trans hi, fun k hk => (hmem _).trans (hbytes k hk)⟩
  rw [hloaded, hi]
  split
  case isTrue hr => exact hbytes r hr
  case isFalse => exact hregs r

end Sys2Proof.Machine
end

section
/-! PROOF. The display: the blank screen, the pixels and the collision of a sprite, and a sprite drawn twice (O37, O38,
O39). -/

namespace Sys2Proof.Machine

/-- Settles O37: every pixel of the blank screen is off. -/
theorem clsBlanksTheScreen : Obligations.ClsBlanksTheScreen :=
  fun s => ⟨_, exec_eq_next .cls s, Framebuffer.pixel_blankScreen, rfl, rfl, onlyChanges_afterInstr s .cls⟩

/-! ### The sprite of a `DRW` (R151, R152) -/

section
variable (s : State) (x y : Reg) (n : Fin 16)

theorem State.length_bytesAt (a count : Nat) : (s.bytesAt a count).length = count := by
  rw [State.bytesAt, List.length_map, List.length_range]

/-- `DRW` draws fewer rows than the screen has, so `drawSprite_spec` says what it does. -/
theorem State.drawn_spec :
    (∀ p, (s.drawn x y n).1.pixel p = (s.fb.pixel p ^^ decide (p ∈
      spritePixels (s.reg x).toNat (s.bytesAt s.i.toNat n.val) (s.reg y).toNat))) ∧
    ((s.drawn x y n).2 = true ↔ ∃ p ∈ spritePixels (s.reg x).toNat (s.bytesAt s.i.toNat n.val) (s.reg y).toNat,
      s.fb.pixel p = true) :=
  drawSprite_spec _ _ _ _ (by rw [State.length_bytesAt]; omega)

theorem State.drawn_collision_iff :
    (s.drawn x y n).2 = true ↔ ∃ p, SpriteCovers s x y n p ∧ s.fb.pixel p = true := by
  simpa only [mem_spritePixels_drawn] using (s.drawn_spec x y n).2

variable {s x y n} {p : Nat}

theorem State.pixel_drawn_of_covered (h : SpriteCovers s x y n p) :
    (s.drawn x y n).1.pixel p = !s.fb.pixel p := by
  rw [(s.drawn_spec x y n).1, decide_eq_true ((mem_spritePixels_drawn s x y n p).mpr h), Bool.xor_true]

theorem State.pixel_drawn_of_not_covered (h : ¬ SpriteCovers s x y n p) :
    (s.drawn x y n).1.pixel p = s.fb.pixel p := by
  rw [(s.drawn_spec x y n).1, decide_eq_false ((mem_spritePixels_drawn s x y n p).not.mpr h), Bool.xor_false]

end

/-! ### The outcomes of `DRW` (R151, R172) -/

theorem rangeInBounds_iff_last_lt (base count : Nat) :
    rangeInBounds base count = true ↔ count = 0 ∨ base + count - 1 < 4096 := by
  rw [rangeInBounds_iff, Config.memSize]
  omega

section
variable {s : State} {x y : Reg} {n : Fin 16}

theorem exec_drwVxVyN_of_inside (h : n.val = 0 ∨ s.i.toNat + n.val - 1 < 4096) :
    exec (.drwVxVyN x y n) s =
      .next ((s.present (s.drawn x y n).1).setReg vf (flagByte (s.drawn x y n).2)).advance := by
  rw [exec_eq_next, State.afterInstr_drwVxVyN_eq, if_pos ((rangeInBounds_iff_last_lt _ _).mpr h)]

theorem exec_drwVxVyN_of_outside (hn : n.val ≠ 0) (h : 4096 ≤ s.i.toNat + n.val - 1) :
    exec (.drwVxVyN x y n) s = .next (s.raise .outOfBounds) := by
  rw [exec_eq_next, State.afterInstr_drwVxVyN_eq, if_neg ((rangeInBounds_iff_last_lt _ _).not.mpr (by omega))]

end

/-- What `VF` holds after a flag that tells whether `p` is so was written to it. -/
theorem State.reg_setReg_flagByte_of_iff (s : State) (r : Reg) {f : Bool} {p : Prop} (h : f = true ↔ p) :
    (p → (s.setReg r (flagByte f)).reg r = 1) ∧ (¬ p → (s.setReg r (flagByte f)).reg r = 0) := by
  rw [State.reg_setReg_self]
  exact ⟨fun hp => if_pos (h.mpr hp), fun hp => if_neg (h.not.mpr hp)⟩

/-- Settles O38: while the last row is inside memory the sprite is drawn, else the fault. -/
theorem drawFlipsTheCoveredPixels : Obligations.DrawFlipsTheCoveredPixels := by
  intro x y n s
  refine ⟨fun hin => ?_, fun hn hout => ⟨_, exec_drwVxVyN_of_outside hn hout, tookFault_raise _ s⟩⟩
  obtain ⟨hset, hclear⟩ := (s.present (s.drawn x y n).1).reg_setReg_flagByte_of_iff vf (s.drawn_collision_iff x y n)
  exact ⟨_, exec_drwVxVyN_of_inside hin,
    fun p _ => ⟨State.pixel_drawn_of_covered, State.pixel_drawn_of_not_covered⟩, hset, hclear, rfl, rfl,
    regsKept_setReg (s.present _) vf _,
    (((onlyChanges_present s _).trans (onlyChanges_setReg _ _ _)).trans (onlyChanges_advance _)).mono (by simp)⟩

/-! ### The same sprite a second time (R153) -/

section
variable {s t : State} {x y : Reg} {n : Fin 16} {p : Nat}

theorem spriteCovers_congr (hi : t.i = s.i) (hx : t.reg x = s.reg x) (hy : t.reg y = s.reg y)
    (hmem : ∀ a, t.byteAt a = s.byteAt a) (p : Nat) : SpriteCovers t x y n p ↔ SpriteCovers s x y n p := by
  simp only [SpriteCovers, hi, hx, hy, hmem]

variable (hfb : t.fb = (s.drawn x y n).1) (hcov : ∀ p, SpriteCovers t x y n p ↔ SpriteCovers s x y n p)
include hfb hcov

/-- A covered pixel is flipped twice, any other one never. -/
theorem State.pixel_drawn_twice : (t.drawn x y n).1.pixel p = s.fb.pixel p := by
  by_cases h : SpriteCovers s x y n p
  · rw [pixel_drawn_of_covered ((hcov p).mpr h), hfb, pixel_drawn_of_covered h, Bool.not_not]
  · rw [pixel_drawn_of_not_covered ((hcov p).not.mpr h), hfb, pixel_drawn_of_not_covered h]

/-- The second drawing collides where the first one set a pixel. -/
theorem State.drawn_twice_collision_iff :
    (t.drawn x y n).2 = true ↔ ∃ p, SpriteCovers s x y n p ∧ s.fb.pixel p = false := by
  rw [drawn_collision_iff]
  refine exists_congr fun p => (and_congr_left' (hcov p)).trans (and_congr_right fun h => ?_)
  rw [hfb, pixel_drawn_of_covered h, Bool.not_eq_true']

end

/-- Settles O39: both drawings cover the same pixels, and the second starts from the screen the first left. -/
theorem drawingTwiceRestoresTheScreen : Obligations.DrawingTwiceRestoresTheScreen := by
  intro x y n s t t' hin hdraw hfb hi hx hy hmem
  rw [exec_drwVxVyN_of_inside hin] at hdraw
  obtain rfl := Host.Outcome.next.inj hdraw
  have hcov := spriteCovers_congr (n := n) hi hx hy hmem
  exact ⟨_, exec_drwVxVyN_of_inside (hi ▸ hin), fun p _ => State.pixel_drawn_twice hfb hcov,
    State.reg_setReg_flagByte_of_iff _ vf (State.drawn_twice_collision_iff hfb hcov)⟩

end Sys2Proof.Machine
end

section
/-! PROOF. Timers and keys: the three timer loads, the wait for a key, and the key that ends it (O40, O41, O42). -/

namespace Sys2Proof.Machine

/-! ### The loads (R160, R163, R164) -/

/-- Settles O40: each load is one write of one byte, then the advance. -/
theorem timerLoads : Obligations.TimerLoads := by
  intro x s
  refine ⟨⟨(s.setReg x s.dt).advance, exec_eq_next _ s, ?_, setReg_advance_frame s x _⟩,
    ⟨(s.setDt (s.reg x)).advance, exec_eq_next _ s, rfl, rfl, onlyChanges_afterInstr s (.ldDtVx x)⟩,
    ⟨(s.setSt (s.reg x)).advance, exec_eq_next _ s, rfl, rfl, onlyChanges_afterInstr s (.ldStVx x)⟩⟩
  exact s.reg_setReg_self x s.dt

/-! ### The wait (R161, decision D8) -/

/-- Settles O41: the wait is entered, then `PC` advances; the result is read off the state left. -/
theorem keyLoadEntersTheWait : Obligations.KeyLoadEntersTheWait := by
  intro x s
  refine ⟨(s.enterWait x).advance, exec_eq_next _ s, rfl, rfl, rfl, State.stepResult_of_waiting rfl, ?_⟩
  exact (onlyChanges_afterInstr s (.ldVxK x)).mono (by simp [writtenBy])

/-! ### The key delivered (R162, decisions D8 and D14) -/

theorem onlyChanges_setRun (s : State) (r : RunState) : OnlyChanges [.run] s { s with run := r } := by
  intro c hc
  cases c
  case run => simp at hc
  case v | mem => exact fun _ => rfl
  all_goals rfl

section
variable {s : State} (k : Key)

theorem State.resume_of_waiting (h : s.run = .waiting) :
    s.resume k = { s.setReg s.waitReg (BitVec.ofNat 8 k.val) with run := .running } := by
  simp only [State.resume, h]

theorem State.resume_of_not_waiting (h : s.run ≠ .waiting) : s.resume k = s := by
  unfold State.resume
  split
  case h_1 hrun => exact absurd hrun h
  all_goals rfl

theorem onlyChanges_resume_of_waiting (h : s.run = .waiting) : OnlyChanges [.v, .run] s (s.resume k) := by
  rw [State.resume_of_waiting k h]
  exact (onlyChanges_setReg s s.waitReg _).trans (onlyChanges_setRun _ .running)

theorem regsKept_resume_of_waiting (h : s.run = .waiting) : RegsKeptBut [s.waitReg] s (s.resume k) := by
  rw [State.resume_of_waiting k h]
  exact regsKept_setReg s s.waitReg _

/-- A key is below 16, so its byte is the key. -/
theorem State.reg_resume_of_waiting (h : s.run = .waiting) : ((s.resume k).reg s.waitReg).toNat = k.val := by
  have hreg : (s.resume k).reg s.waitReg = BitVec.ofNat 8 k.val := by
    rw [State.resume_of_waiting k h]
    exact s.reg_setReg_self s.waitReg _
  rw [hreg, BitVec.toNat_ofNat, Nat.mod_eq_of_lt (by omega)]

end

/-- Settles O42: a waiting core takes the key, any other keeps its state. -/
theorem resumeDeliversTheKey : Obligations.ResumeDeliversTheKey := by
  intro k s fresh
  refine ⟨fun h => ⟨s.resume k, apply_resume k _, State.reg_resume_of_waiting k h, ?_,
    regsKept_resume_of_waiting k h, onlyChanges_resume_of_waiting k h⟩, fun h => ?_⟩
  · rw [State.resume_of_waiting k h]
  · rw [apply_resume, State.resume_of_not_waiting k h]

end Sys2Proof.Machine
end

section
/-! PROOF. Faults and what acts in every run state: the illegal word, the faults of the instructions, the halt, the
timers and the redraw flag (O10, O43, O46, O48). -/

namespace Sys2Proof.Machine

/-! ### The illegal word (R66, R171) -/

/-- Settles O10: the decoder rejects the word the step fetches. -/
theorem illegalWordRaisesInvalidOpcode : Obligations.IllegalWordRaisesInvalidOpcode :=
  fun s hrun hpc hop =>
    ⟨_, step_of_decode_error hrun hpc hop, rfl, rfl, rfl, onlyChanges_raiseInvalidOpcode s _⟩

/-! ### The faults of the instructions (R170, R172, R178) -/

/-- From a running `s`, `t` is not faulted and has the fault record of `s`. -/
def NoFaultTaken (s t : State) : Prop :=
  s.run = .running → t.run ≠ .faulted ∧ t.fault = s.fault ∧ t.faultOp = s.faultOp

/-- From `s` to `t` the fault listed was taken, or none where none is listed. -/
def TookListedFault (listed : Option FaultCode) (s t : State) : Prop :=
  (∀ f, listed = some f → TookFault f s t) ∧ (listed = none → NoFaultTaken s t)

section
variable {s t : State}

theorem noFaultTaken_of_eq (hrun : t.run = s.run) (hfault : t.fault = s.fault) (hop : t.faultOp = s.faultOp) :
    NoFaultTaken s t := by
  intro hs
  rw [hrun, hs]
  exact ⟨nofun, hfault, hop⟩

theorem tookListedFault_none (h : NoFaultTaken s t) : TookListedFault none s t :=
  ⟨nofun, fun _ => h⟩

/-- The instruction faults on the condition listed. -/
theorem tookListedFault_ite {f : FaultCode} {p : Prop} [Decidable p] (h : NoFaultTaken s t) :
    TookListedFault (if p then some f else none) s (if p then s.raise f else t) := by
  split_ifs
  · refine ⟨fun g hg => ?_, nofun⟩
    obtain rfl := Option.some.inj hg
    exact tookFault_raise f s
  · exact tookListedFault_none h

/-- The instruction goes on when its check `q` passes, and the condition listed is that it does not. -/
theorem tookListedFault_ite_check {f : FaultCode} {p q : Prop} [Decidable p] [Decidable q] (hpq : p ↔ ¬ q)
    (h : NoFaultTaken s t) : TookListedFault (if p then some f else none) s (if q then t else s.raise f) := by
  have hflip : (if q then t else s.raise f) = if p then s.raise f else t := by
    rw [if_congr hpq rfl rfl, ite_not]
  rw [hflip]
  exact tookListedFault_ite h

end

section
variable (s : State)

theorem tookListedFault_skipOnKey (x : Reg) (wanted : Bool) :
    TookListedFault (if (s.reg x).toNat > 15 then some .outOfBounds else none) s (skipOnKey x wanted s) := by
  rw [skipOnKey_eq]
  exact tookListedFault_ite_check not_le.symm (noFaultTaken_of_eq rfl rfl rfl)

theorem noFaultTaken_storeBytes_advance (a : Nat) (bs : List Byte) : NoFaultTaken s (s.storeBytes a bs).advance :=
  noFaultTaken_of_eq (s.storeBytes_run a bs) (s.storeBytes_fault a bs) (s.storeBytes_faultOp a bs)

theorem le_add_iff_not_rangeInBounds (base last : Nat) :
    base + last ≥ 4096 ↔ ¬ rangeInBounds base (last + 1) = true := by
  rw [rangeInBounds_succ_iff, not_lt]

/-- Each check of an instruction is the condition the tables list for it, and with its check passed no instruction
touches the record: `LD Vx,K` alone writes `RUN`, and it enters the wait. -/
theorem tookListedFault_afterInstr : ∀ i : Instr, TookListedFault (faultOf s i) s (s.afterInstr i)
  | .ret | .ldFVx _ => tookListedFault_ite (noFaultTaken_of_eq rfl rfl rfl)
  | .call _ => tookListedFault_ite (noFaultTaken_of_eq (s.push_run _) (s.push_fault _) (s.push_faultOp _))
  | .skpVx x => tookListedFault_skipOnKey s x true
  | .sknpVx x => tookListedFault_skipOnKey s x false
  | .ldBVx _ => tookListedFault_ite_check (le_add_iff_not_rangeInBounds _ 2)
      (noFaultTaken_storeBytes_advance s _ _)
  | .ldMemVx x => tookListedFault_ite_check (le_add_iff_not_rangeInBounds _ x.val)
      (noFaultTaken_storeBytes_advance s _ _)
  | .ldVxMem x => tookListedFault_ite_check (le_add_iff_not_rangeInBounds _ x.val) (noFaultTaken_of_eq rfl rfl rfl)
  | .drwVxVyN _ _ n => tookListedFault_ite_check (by rw [rangeInBounds_iff_last_lt]; omega)
      (noFaultTaken_of_eq rfl rfl rfl)
  | .ldVxK _ => tookListedFault_none fun _ => ⟨nofun, rfl, rfl⟩
  | .cls | .sys _ | .jp _ | .jpV0Addr _ | .seVxKk _ _ | .sneVxKk _ _ | .seVxVy _ _ | .sneVxVy _ _ | .ldVxKk _ _
  | .addVxKk _ _ | .ldVxVy _ _ | .orVxVy _ _ | .andVxVy _ _ | .xorVxVy _ _ | .addVxVy _ _ | .subVxVy _ _ | .shrVx _ _
  | .subnVxVy _ _ | .shlVx _ _ | .rndVxKk _ _ | .ldIAddr _ | .addIVx _ | .ldVxDt _ | .ldDtVx _ | .ldStVx _ =>
    tookListedFault_none (noFaultTaken_of_eq rfl rfl rfl)

end

/-- Settles O46: every instruction leaves its one next state with the fault listed, or with none. -/
theorem instructionsFaultExactlyAsListed : Obligations.InstructionsFaultExactlyAsListed := by
  intro i s t h
  obtain rfl := eq_afterInstr h
  exact tookListedFault_afterInstr s i

/-! ### The halt (R88, R177, decisions D5 and D14) -/

/-- A faulted core is not as `reset` left it, so no load is accepted. -/
theorem loadProgram_ne_next_of_faulted {bytes : List Byte} {r r' : Session} {x : OpResult}
    (hrun : r.core.run = .faulted) : loadProgram bytes r ≠ .next (r', x) := by
  intro h
  obtain ⟨-, hcore, -⟩ := loadProgram_next h
  have hrunning : r.core.run = .running := congrArg State.run hcore
  exact absurd (hrunning.symm.trans hrun) (by decide)

/-- Settles O48: a load is refused, a step and a key find nothing to do, the other two write elsewhere. -/
theorem onlyResetLeavesFaulted : Obligations.OnlyResetLeavesFaulted := by
  intro o r r' x hrun hreset happly
  cases o
  case reset => exact absurd rfl hreset
  case loadProgram bytes => exact absurd happly (loadProgram_ne_next_of_faulted hrun)
  case step keys rnd =>
    cases (apply_step_of_not_running r.fresh keys rnd (by simp [hrun])).symm.trans happly
    exact ⟨hrun, rfl, rfl, rfl⟩
  case resume k =>
    rw [apply_resume, State.resume_of_not_waiting k (by simp [hrun])] at happly
    cases happly
    exact ⟨hrun, rfl, rfl, rfl⟩
  case tickTimers | clearRedraw =>
    cases happly
    exact ⟨hrun, rfl, rfl, rfl⟩

/-! ### The timers and the redraw flag (R184, R185, decision D14) -/

theorem countDown_toNat (b : Byte) : (countDown b).toNat = b.toNat - 1 := by
  unfold countDown
  split
  case isTrue h => simp [h]
  case isFalse h => bv_omega

theorem onlyChanges_tickTimers (s : State) : OnlyChanges [.dt, .st] s s.tickTimers := by
  intro c hc; cases c <;> simp [Same] at hc ⊢

theorem onlyChanges_clearRedraw (s : State) : OnlyChanges [.redraw] s s.clearRedraw := by
  intro c hc; cases c <;> simp [Same] at hc ⊢

/-- Settles O43: neither operation looks at `RUN`. -/
theorem tickAndClearRedraw : Obligations.TickAndClearRedraw :=
  fun s _ =>
    ⟨⟨s.tickTimers, apply_tickTimers _, countDown_toNat s.dt, countDown_toNat s.st, onlyChanges_tickTimers s⟩,
      ⟨s.clearRedraw, apply_clearRedraw _, rfl, onlyChanges_clearRedraw s⟩⟩

end Sys2Proof.Machine
end

section
/-! PROOF. Loading a program: the image copied or turned away after `reset`, and no load after a step or an accepted
load (O44, O45). -/

namespace Sys2Proof.Machine

/-! ### What a load answers (R180, R201, decision D17) -/

theorem Session.loadable_iff {r : Session} : r.loadable = true ↔ r.fresh = true ∧ r.core = r.core.afterReset := by
  simp [Session.loadable]

theorem loadProgram_of_not_loadable {bytes : List Byte} {r : Session}
    (h : r.fresh = false ∨ r.core ≠ r.core.afterReset) :
    loadProgram bytes r = .refused .loadOutsidePrecondition := by
  refine if_neg fun hl => ?_
  obtain ⟨hfresh, hcore⟩ := Session.loadable_iff.mp hl
  exact h.elim (by simp [hfresh]) (· hcore)

section
variable {bytes : List Byte} (s : State)

theorem loadProgram_afterReset_of_fits (h : bytes.length ≤ Config.progMax) :
    loadProgram bytes ⟨s.afterReset, true⟩ =
      .next (⟨s.afterReset.storeBytes Config.progBase bytes, false⟩, .ok) :=
  (if_pos (Session.loadable_iff.mpr ⟨rfl, rfl⟩)).trans (if_neg h.not_gt)

theorem loadProgram_afterReset_of_tooLarge (h : Config.progMax < bytes.length) :
    loadProgram bytes ⟨s.afterReset, true⟩ = .next (⟨s.afterReset, true⟩, .romTooLarge) :=
  (if_pos (Session.loadable_iff.mpr ⟨rfl, rfl⟩)).trans (if_pos h)

end

/-- Settles O44: after `reset` a load is within its precondition, and its length alone decides. -/
theorem loadProgramCopiesTheImage : Obligations.LoadProgramCopiesTheImage :=
  fun bytes s =>
    ⟨fun hfits => ⟨s.afterReset.storeBytes Config.progBase bytes, loadProgram_afterReset_of_fits s hfits,
        fun k hk => s.afterReset.byteAt_storeBytes_inside _ k bytes hk,
        fun b hb => s.afterReset.byteAt_storeBytes_outside _ b bytes hb,
        onlyChanges_storeBytes s.afterReset _ bytes⟩,
      loadProgram_afterReset_of_tooLarge s, fun _ => loadProgram_of_not_loadable⟩

/-! ### The flag of the session (R201, decision D17) -/

/-- Only `reset` makes a session fresh again: a step and an accepted load end it, the rest leaves it as it is. -/
theorem fresh_eq_false_of_apply {o : Operation} {r r' : Session} {x : OpResult} (happly : apply o r = .next (r', x))
    (ho : (∃ keys rnd, o = .step keys rnd) ∨ (∃ bytes, o = .loadProgram bytes ∧ x = .ok) ∨
      (r.fresh = false ∧ o ≠ .reset)) : r'.fresh = false := by
  cases o
  case reset => simp at ho
  case loadProgram bytes =>
    obtain ⟨hfresh, -, ⟨-, -, rfl⟩ | ⟨-, -, rfl⟩⟩ := loadProgram_next happly
    · simp [hfresh] at ho
    · rfl
  case step keys rnd =>
    obtain ⟨t, -, rfl, -⟩ := hostStep_next happly
    rfl
  case resume | tickTimers | clearRedraw =>
    cases happly
    simpa using ho

/-- Settles O45: the session after the operation is not fresh, and then no load is within its precondition. -/
theorem loadIsRefusedUntilTheNextReset : Obligations.LoadIsRefusedUntilTheNextReset := by
  intro o r r' x happly ho
  have hfresh : r'.fresh = false := fresh_eq_false_of_apply happly ho
  exact ⟨hfresh, fun _ => loadProgram_of_not_loadable (.inl hfresh)⟩

end Sys2Proof.Machine
end
